-- ==== Sys2Proof/Word.lean ====
section
/-! DEFINITION. The word types of the hardware (00_scope.md R4: 8-bit data, 16-bit CPU addresses, 14-bit video
addresses; 30_encoding.md R70: the 17-bit transaction word). Every value is unsigned (00_scope.md section 5). -/
namespace Sys2Proof

/-- One byte: the width of every access of this hardware (R57). -/
abbrev Byte := BitVec 8

/-- A CPU-bus address (R42). -/
abbrev Addr := BitVec 16

/-- An address of the PPU (video) address space (R16, R40). -/
abbrev VramAddr := BitVec 14

/-- The transaction word `T`: `T[16]` is the direction (1 for a write), `T[15:0]` the address (R70). -/
abbrev TWord := BitVec 17

/-- The state code of the sequencer (R84). -/
abbrev SeqCode := BitVec 2

end Sys2Proof
end

