-- ==== Sys2Proof/Syntax.lean ====
section
/-! DEFINITION. The operations of the hardware: one constructor per row of spec/opcode_table.json, and the
transaction the CPU engine presents. An operation with an ignored address bit (a mirror) keeps the whole 16-bit address,
so that no bit of the transaction word is lost (log 11). -/
namespace Sys2Proof

/-- A CPU-bus transaction: the triple (direction, address, data byte) of R70, with direction and address already
joined in the 17-bit transaction word. The data byte of a read has no meaning. -/
structure BusTxn where
  word : TWord
  data : Byte
  deriving DecidableEq, Repr, Inhabited

/-- The 25 bus operations (R71) and the three sequencer steps (R84), in the order of the opcode table. -/
inductive Instr where
  | ramR (a : Addr)
  | ramW (a : Addr) (v : Byte)
  | ctrlR (a : Addr)
  | ctrlW (a : Addr) (v : Byte)
  | maskR (a : Addr)
  | maskW (a : Addr) (v : Byte)
  | statusR (a : Addr)
  | statusW (a : Addr) (v : Byte)
  | oamaddrR (a : Addr)
  | oamaddrW (a : Addr) (v : Byte)
  | oamdataR (a : Addr)
  | oamdataW (a : Addr) (v : Byte)
  | scrollR (a : Addr)
  | scrollW (a : Addr) (v : Byte)
  | addrR (a : Addr)
  | addrW (a : Addr) (v : Byte)
  | dataR (a : Addr)
  | dataW (a : Addr) (v : Byte)
  | oamdmaW (v : Byte)
  | joy1R
  | joy1W (v : Byte)
  | openR (a : Addr)
  | openW (a : Addr) (v : Byte)
  | prgR (a : Addr)
  | prgW (a : Addr) (v : Byte)
  | seqActive
  | seqPostrender
  | seqVblank
  deriving DecidableEq, Repr, Inhabited

/-- Whether an operation is one of the 25 CPU-bus operations (the opcode table's format `BUS`). -/
def Instr.isBus : Instr → Bool
  | .seqActive | .seqPostrender | .seqVblank => false
  | .ramR _ | .ramW _ _ | .ctrlR _ | .ctrlW _ _ | .maskR _ | .maskW _ _ | .statusR _ | .statusW _ _
  | .oamaddrR _ | .oamaddrW _ _ | .oamdataR _ | .oamdataW _ _ | .scrollR _ | .scrollW _ _
  | .addrR _ | .addrW _ _ | .dataR _ | .dataW _ _ | .oamdmaW _ | .joy1R | .joy1W _
  | .openR _ | .openW _ _ | .prgR _ | .prgW _ _ => true

end Sys2Proof
end

