-- ==== Sys2Proof/Config.lean ====
section
/-! DEFINITION. What one implementation fixes (00_scope.md R4) and what is left free: the parameters, the answers of the
external collaborators (R7), and the opaque constants no proof can see into. -/
namespace Sys2Proof

/-- The button states `pollButtonStates` answers, in the order of R7 and R89; `true` is pressed (D25). -/
structure Buttons where
  a : Bool
  b : Bool
  select : Bool
  start : Bool
  up : Bool
  down : Bool
  left : Bool
  right : Bool
  deriving DecidableEq, Repr, Inhabited

/-- The answer of `presentFrame`: `continue` or `close` (R7). -/
inductive HostAnswer where
  | carryOn
  | close
  deriving DecidableEq, Repr, Inhabited

/-- An entry of `MASTER_RGB`, "the 64-entry RGB table" (R4). DESIGN CHOICE (log 22): the spec gives no entry and no width of
its components (N16); the model gives each of the three 8 bits. -/
structure Rgb where
  red : Byte
  green : Byte
  blue : Byte
  deriving DecidableEq, Repr, Inhabited

/-- The parameters the spec leaves open or decides by a default (R4); no operation writes them (log 8). -/
structure Params where
  /-- `WO_READ_FILL`: what a read of a write-only port returns (D2). -/
  woReadFill : Byte
  /-- `CTRL_SHIFT_FILL`: the bit shifted into the controller register (D25). -/
  ctrlShiftFill : Bool
  /-- `BANKSEL_MAPPER_ID`: the mapper id of the bank-switch-by-value mapper (D27). -/
  bankselMapperId : Byte
  /-- `CYCLES_PER_SCANLINE`: the argument of every `executeCycles` call (D31); a positive integer. -/
  cyclesPerScanline : Nat
  deriving DecidableEq, Repr

/-- The defaults of R4; `CYCLES_PER_SCANLINE` has none there and is PRESUMED 113 (R227, log 8). -/
def Params.default : Params where
  woReadFill := 0xFF#8
  ctrlShiftFill := false
  bankselMapperId := 3#8
  cyclesPerScanline := 113

/-- DESIGN CHOICE (log 3): what the CPU engine presents in a budget that no data of State describes: the n-th free
draw. R6 and U17 leave it open. -/
opaque Config.freeBudget : Nat → List BusTxn

/-- DESIGN CHOICE (log 4): the button states at a strobe that no data of State describes: the n-th free draw (U18). -/
opaque Config.freeButtons : Nat → Buttons

/-- DESIGN CHOICE (log 5): the `presentFrame` answer that no data of State describes: the n-th free draw (U19). -/
opaque Config.freeAnswer : Nat → HostAnswer

/-- `MASTER_RGB[64]`, handed to `presentFrame` with every frame; its contents are not in the spec and no rule reads
an entry (R154, U20, log 18). -/
opaque Config.masterRgb : Vector Rgb 64

end Sys2Proof
end

