-- ==== Sys2Proof/Machine/State.lean ====
section
/-! DEFINITION. The state of the machine as plain data: every piece of state of 10_state.md, the cartridge constants, the
parameters, and the model's own input and output fields (INVENTORY.md, State). -/
namespace Sys2Proof.Machine

/-- A memory: address and byte pairs in one canonical form, addresses strictly rising and no byte equal to what an
unlisted address reads as (log 12). -/
abbrev Memory := List Host.Cell

/-- The nametable mirroring modes; the hardware has these two only (R52). -/
inductive Mirroring where
  | horizontal
  | vertical
  deriving DecidableEq, Repr, Inhabited

/-- The cartridge constants of R28, derived at load (R166 to R170) and never written afterwards. -/
structure Cartridge where
  /-- `prg_size` in bytes -/
  prgSize : Nat
  /-- `chr_size` in bytes -/
  chrSize : Nat
  /-- `bank_count`: the number of 8KB CHR banks -/
  bankCount : Nat
  mirroring : Mirroring
  /-- `mapper_id` -/
  mapperId : Byte
  /-- `CART[]`: the PRG-ROM bytes, then the CHR-ROM bytes -/
  data : Memory
  deriving DecidableEq, Repr

/-- What the block sends out: the byte a read returns to the CPU engine, and its calls to the collaborators (R7). -/
inductive Output where
  /-- the byte a `BusRead` returns (R90) -/
  | returned (v : Byte)
  /-- `CPU.raiseNMI()` (R197) -/
  | raiseNmi
  /-- `CPU.executeCycles(n)` (R6) -/
  | executeCycles (n : Nat)
  /-- `CPU.reset()` (R215) -/
  | cpuReset
  /-- `Host.pollButtonStates()` (R99) -/
  | pollButtonStates
  /-- `Host.presentFrame(pixels, palette)`: the frame buffer as it is handed over, and the 64-entry RGB table (R154) -/
  | presentFrame (pixels : Memory) (palette : Vector Rgb 64)
  deriving DecidableEq, Repr

structure State where
  /-- `ctrl`, port 0 (R11) -/
  ctrl : Byte
  /-- `mask`, port 1 (R13) -/
  mask : Byte
  /-- `status`, port 2 (R14) -/
  status : Byte
  /-- `w_latch`: `true` when the next scroll or address write is the second of a pair (R17) -/
  wLatch : Bool
  /-- `oam_addr` (R15) -/
  oamAddr : Byte
  /-- `vram_addr` (R16) -/
  vramAddr : VramAddr
  /-- `scroll_x` (R18) -/
  scrollX : Byte
  /-- `scroll_y` (R18) -/
  scrollY : Byte
  /-- `read_buf` (R19) -/
  readBuf : Byte
  /-- `joy_shift` (R25) -/
  joyShift : Byte
  /-- `chr_bank` (R26) -/
  chrBank : Nat
  /-- `scanline` (R30) -/
  scanline : BitVec 9
  /-- `halted` (R31) -/
  halted : Bool
  /-- `NT[2048]` (R20) -/
  nt : Memory
  /-- `OAM[256]` (R21) -/
  oam : Memory
  /-- `PAL[64]` (R22) -/
  pal : Memory
  /-- `FB[240][256]`, row-major (R23) -/
  fb : Memory
  /-- `RAM[2048]` (R24) -/
  ram : Memory
  /-- the cartridge (R28) -/
  cart : Cartridge
  /-- the parameters (R4) -/
  params : Params
  /-- the model's own: transactions presented outside any budget, oldest first (log 1) -/
  pending : List BusTxn
  /-- the model's own: the transactions of each coming `executeCycles` call (log 3) -/
  budgets : List (List BusTxn)
  /-- the model's own: the answers of the coming `pollButtonStates` calls (log 4) -/
  buttons : List Buttons
  /-- the model's own: the answers of the coming `presentFrame` calls (log 5) -/
  answers : List HostAnswer
  /-- the model's own: how many free values have been drawn (log 6) -/
  drawn : Nat
  /-- the model's own: everything sent out so far, newest first (log 7) -/
  trace : List Output
  deriving DecidableEq, Repr

/-- No operation of this hardware faults: "no bus transaction and no sequencer step faults, traps or hangs" (R8, R195).
The type is empty. -/
inductive Fault : Type
  deriving DecidableEq, Repr

/-- Why the model gives no meaning. -/
inductive Refusal where
  /-- the host's constructor for an instruction without a meaning; nothing raises it (safe) -/
  | notModelled (mnemonic : String)
  deriving DecidableEq, Repr

/-- The cartridge of `State.reset`: the default of 95_test_vectors.md, 1 PRG unit, 1 CHR unit, horizontal mirroring,
mapper 0, every byte zero (DESIGN CHOICE, log 9). -/
def Cartridge.blank : Cartridge where
  prgSize := 16384
  chrSize := 8192
  bankCount := 1
  mirroring := .horizontal
  mapperId := 0#8
  data := []

/-- The machine right after reset with cartridge `c` and parameters `p` (R33, R215): every register and memory byte
zero, and `CPU.reset()` called. -/
def State.resetWith (c : Cartridge) (p : Params) : State where
  ctrl := 0#8
  mask := 0#8
  status := 0#8
  wLatch := false
  oamAddr := 0#8
  vramAddr := 0#14
  scrollX := 0#8
  scrollY := 0#8
  readBuf := 0#8
  joyShift := 0#8
  chrBank := 0
  scanline := 0#9
  halted := false
  nt := []
  oam := []
  pal := []
  fb := []
  ram := []
  cart := c
  params := p
  pending := []
  budgets := []
  buttons := []
  answers := []
  drawn := 0
  trace := [.cpuReset]

/-- The machine right after reset. -/
def State.reset : State := State.resetWith Cartridge.blank Params.default

end Sys2Proof.Machine
end

