-- ==== Sys2Proof/Machine/Ops.lean ====
section
/-! DEFINITION. The shared operations over memory, the outputs, the inputs and the video address space (20_memory.md),
and the one event the hardware sends out, the NMI request (60_exceptions.md). -/
namespace Sys2Proof.Machine

/-- What an address that no pair lists reads as: the reset contents, 0 (R33; the spec's decision D34, log 12). -/
def Memory.unlisted : Byte := 0#8

def Memory.read : Memory → Nat → Byte
  | [], _ => Memory.unlisted
  | (k, v) :: m, a => if k = a then v else Memory.read m a

/-- A memory without any pair for `a`. -/
def Memory.erase : Memory → Nat → Memory
  | [], _ => []
  | (k, v) :: m, a => if k = a then Memory.erase m a else (k, v) :: Memory.erase m a

/-- A memory with the pair `(a, v)` put before the first greater address. -/
def Memory.insert : Memory → Nat → Byte → Memory
  | [], a, v => [(a, v)]
  | (k, w) :: m, a, v => if a < k then (a, v) :: (k, w) :: m else (k, w) :: Memory.insert m a v

/-- Store a byte, keeping the canonical form: storing what an unlisted address reads as removes the pair. -/
def Memory.write (m : Memory) (a : Nat) (v : Byte) : Memory :=
  if v = Memory.unlisted then m.erase a else (m.erase a).insert a v

/-- Every address of `m` is above `a`, in strictly rising order, and no byte is the unlisted one. -/
def Memory.risesFrom : Nat → Memory → Bool
  | _, [] => true
  | a, (k, v) :: m => a < k && v != Memory.unlisted && Memory.risesFrom k m

/-- The canonical form. -/
def Memory.wf : Memory → Bool
  | [] => true
  | (k, v) :: m => v != Memory.unlisted && Memory.risesFrom k m

/-- Every address of `m` is below `n`, the size of the space it stands for. -/
def Memory.below (n : Nat) (m : Memory) : Bool := m.all (fun c => c.1 < n)

/-- The memory that holds the bytes `bs` from address `a` on. -/
def Memory.ofBytes : Nat → List Byte → Memory
  | _, [] => []
  | a, v :: bs => if v = Memory.unlisted then Memory.ofBytes (a + 1) bs else (a, v) :: Memory.ofBytes (a + 1) bs

/-- `b[j] <- value(j)` for `j = 0 .. n - 1` in turn. -/
def Memory.fill (n : Nat) (value : Nat → Byte) (m : Memory) : Memory :=
  (List.range n).foldl (fun m j => m.write j (value j)) m

/-- Send something out. -/
def State.emit (s : State) (o : Output) : State := { s with trace := o :: s.trace }

/-- Return a byte to the CPU engine: the end of every read operation (R90). -/
def State.answer (s : State) (v : Byte) : State := s.emit (.returned v)

/-- The NMI request, this hardware's whole part in taking an exception: it calls `CPU.raiseNMI()` and changes no other
state; no register is saved, no mode changes, and there is no vector here (R201). There is no return either: the
hardware is not told when the handler returns and nothing in it changes then (R202). -/
def State.requestNmi (s : State) : State := s.emit .raiseNmi

/-- `Host.pollButtonStates()`: the next button states the input data gives, or a free value (R99, U18, log 4). -/
def State.pollButtons (s : State) : Buttons × State :=
  match s.buttons with
  | b :: rest => (b, { s with buttons := rest, trace := .pollButtonStates :: s.trace })
  | [] => (Config.freeButtons s.drawn, { s with drawn := s.drawn + 1, trace := .pollButtonStates :: s.trace })

/-- `Host.presentFrame(FB, MASTER_RGB)` and its answer: the next the input data gives, or a free value
(R154, R177, U19, log 5). -/
def State.presentFrame (s : State) : HostAnswer × State :=
  match s.answers with
  | a :: rest => (a, { s with answers := rest, trace := .presentFrame s.fb Config.masterRgb :: s.trace })
  | [] => (Config.freeAnswer s.drawn, { s with drawn := s.drawn + 1, trace := .presentFrame s.fb Config.masterRgb :: s.trace })

/-- The transactions of the next budget: those the input data gives, or a free value (R6, U17, log 3). -/
def State.takeBudget (s : State) : List BusTxn × State :=
  match s.budgets with
  | b :: rest => (b, { s with budgets := rest })
  | [] => (Config.freeBudget s.drawn, { s with drawn := s.drawn + 1 })

/-- `NtMap(a)`: a PPU address in 0x2000-0x3EFF to an index of `NT` (R52). `x & (2^k - 1)` is `x % 2^k`, `x >> k` is
`x / 2^k`, and the two operands of R52's `|` share no bit. The two folds are D11. -/
def ntMap (m : Mirroring) (a : Nat) : Nat :=
  let o := (a - 0x2000) % 0x1000
  match m with
  | .vertical => o % 0x800
  | .horizontal => o / 0x800 * 0x400 + o % 0x400

/-- `chr_base`: the offset in `CART` of the selected CHR bank (R27). -/
def State.chrBase (s : State) : Nat := s.cart.prgSize + s.chrBank * 0x2000

/-- `VramRead(a)`, which reduces `a` modulo 0x4000 first (R50, the map R47). -/
def State.vramRead (s : State) (a : Nat) : Byte :=
  let a := a % 0x4000
  if a < 0x2000 then s.cart.data.read (s.chrBase + a)
  else if a < 0x3F00 then s.nt.read (ntMap s.cart.mirroring a)
  else s.pal.read (a % 0x40)

/-- `VramWrite(a, v)` (R51): a store to the pattern tables is dropped (D9); a palette entry keeps all 8 bits (D10). -/
def State.vramWrite (s : State) (a : Nat) (v : Byte) : State :=
  let a := a % 0x4000
  if a < 0x2000 then s
  else if a < 0x3F00 then { s with nt := s.nt.write (ntMap s.cart.mirroring a) v }
  else { s with pal := s.pal.write (a % 0x40) v }

/-- The cell of `FB[y][x]` in the frame buffer's memory: row by row (R23, R54). -/
def fbIndex (y x : Nat) : Nat := y * 256 + x

/-- `FB[y][x]` (R54). -/
def State.pixel (s : State) (y x : Nat) : Byte := s.fb.read (fbIndex y x)

end Sys2Proof.Machine
end

