-- ==== Sys2Proof/Machine/Flags.lean ====
section
/-! DEFINITION. The fields of the control, mask and status bytes and of a sprite's attribute byte, and every operation on
the single-bit state (10_state.md section 4). -/
namespace Sys2Proof.Machine

/-- `vram_inc`: 32 when `ctrl[2]` is set, else 1 (R12). -/
def State.vramInc (s : State) : Nat := if s.ctrl.getLsbD 2 then 32 else 1

/-- `sprite_height`: 16 when `ctrl[5]` is set, else 8 (R12). -/
def State.spriteHeight (s : State) : Nat := if s.ctrl.getLsbD 5 then 16 else 8

/-- `spr_pattern_base`, for 8x8 sprites only (R12, D5). -/
def State.sprPatternBase (s : State) : Nat := if s.ctrl.getLsbD 3 then 0x1000 else 0

/-- `bg_pattern_base` (R12, D5). -/
def State.bgPatternBase (s : State) : Nat := if s.ctrl.getLsbD 4 then 0x1000 else 0

/-- `nt_base = 0x2000 + 0x400 * ctrl[1:0]`, a logical VRAM address (R12, D6). -/
def State.ntBase (s : State) : Nat := 0x2000 + 0x400 * (s.ctrl.extractLsb' 0 2).toNat

/-- `nmi_enable`: bit 7 of a control byte (R11, R12). -/
def nmiBit (c : Byte) : Bool := c.getLsbD 7

/-- `NMIE` (R11). -/
def State.nmiEnable (s : State) : Bool := nmiBit s.ctrl

/-- `BGV`: `mask[3]` (R13). -/
def State.bgVisible (s : State) : Bool := s.mask.getLsbD 3

/-- `SPV`: `mask[4]` (R13). -/
def State.sprVisible (s : State) : Bool := s.mask.getLsbD 4

/-- `VBL`: `status[7]` (R14). -/
def State.vblank (s : State) : Bool := s.status.getLsbD 7

/-- `status[7] <- 1` (R178). -/
def State.setVblank (s : State) : State := { s with status := s.status ||| 0x80#8 }

/-- `status[7] <- 0` (R114, R180). -/
def State.clearVblank (s : State) : State := { s with status := s.status &&& 0x7F#8 }

/-- The condition of the NMI, `NMIE and VBL` (R198). -/
def State.nmiLine (s : State) : Bool := s.nmiEnable && s.vblank

/-- `SPRPAL`: the sprite's palette number (R79, D18). -/
def sprPalette (attr : Byte) : BitVec 2 := attr.extractLsb' 0 2

/-- `PRIO`: the sprite is written only over a frame-buffer byte of 0 (R79, D18). -/
def sprBehind (attr : Byte) : Bool := attr.getLsbD 5

/-- `HFLIP` (R79, D18). -/
def sprFlipH (attr : Byte) : Bool := attr.getLsbD 6

/-- `VFLIP` (R79, D18). -/
def sprFlipV (attr : Byte) : Bool := attr.getLsbD 7

end Sys2Proof.Machine
end

