-- ==== Sys2Proof/Machine/Operands.lean ====
section
/-! DEFINITION. Operand assembly and address formation: every reduction of 00_scope.md section 5's table, the halves of the
double writes (R76), the DMA page (R77), the controller byte (R89). -/
namespace Sys2Proof.Machine

/-- The RAM cell of a CPU address: `A & 0x7FF` (R43). -/
def ramIndex (a : Addr) : Nat := a.toNat % 0x800

/-- The PPU port of a CPU address: `A & 7` (R44). -/
def portIndex (a : Addr) : Nat := a.toNat % 8

/-- The PRG-ROM byte of a CPU address: `(A - 0x8000) mod prg_size` (R46). -/
def prgOffset (prgSize : Nat) (a : Addr) : Nat := (a.toNat - 0x8000) % prgSize

/-- The i-th source cell of an OAM DMA from page `v`: `((v << 8) + i) & 0x7FF` (R77, R97; the fold is D23). -/
def dmaSource (v : Byte) (i : Nat) : Nat := (v.toNat * 256 + i) % 0x800

/-- The VRAM address after a first address-port write: `v[5:0]` over the old low byte (R76, R122, D7). -/
def withAddrHigh (old : VramAddr) (v : Byte) : VramAddr := v.extractLsb' 0 6 ++ old.extractLsb' 0 8

/-- The VRAM address after a second address-port write: the old high part over `v` (R76, R122, D7). -/
def withAddrLow (old : VramAddr) (v : Byte) : VramAddr := old.extractLsb' 8 6 ++ v

/-- The OAM cursor after a data-port write: `(oam_addr + 1) & 0xFF` (R15, R118). -/
def nextOamAddr (o : Byte) : Byte := o + 1#8

/-- The controller byte: A in bit 0 up to Right in bit 7, pressed is 1 (R89, R99, D25). -/
def buttonsByte (b : Buttons) : Byte :=
  BitVec.ofBool b.right ++ BitVec.ofBool b.left ++ BitVec.ofBool b.down ++ BitVec.ofBool b.up ++
    BitVec.ofBool b.start ++ BitVec.ofBool b.select ++ BitVec.ofBool b.b ++ BitVec.ofBool b.a

/-- The byte a controller read returns: the shifted-out bit in bit 0, zero above it (R89, R100, D25). -/
def controllerByte (shift : Byte) : Byte := (shift.extractLsb' 0 1).zeroExtend 8

/-- The controller register after a read: `(CTRL_SHIFT_FILL << 7) | (joy_shift >> 1)` (R100, D25). -/
def shiftedOut (fill : Bool) (shift : Byte) : Byte := BitVec.ofBool fill ++ shift.extractLsb' 1 7

/-- The selected CHR bank: `v mod bank_count` (R161). -/
def bankOf (bankCount : Nat) (v : Byte) : Nat := v.toNat % bankCount

/-- Byte `field` of OAM entry `i`: `OAM[4i + field]` with the fields Y, tile, attributes, X (R78). -/
def oamIndex (i field : Nat) : Nat := 4 * i + field

/-- The offset of the tile id of row `r`, column `c` in a nametable (R81, D14). -/
def tileOffset (r c : Nat) : Nat := r * 32 + c

/-- The offset of the attribute byte of the block of tile (`r`, `c`) (R81, D14). -/
def attrOffset (r c : Nat) : Nat := 0x3C0 + r / 4 * 8 + c / 4

/-- The quadrant of tile (`r`, `c`) in its block (R81, R144). -/
def quadrant (r c : Nat) : Nat := r % 4 / 2 * 2 + c % 4 / 2

/-- The 2-bit field of quadrant `q` in an attribute byte: `(attr >> (2 * q)) & 3` (R81, R144, D14). -/
def attrField (attr : Byte) (q : Nat) : BitVec 2 := attr.extractLsb' (2 * q) 2

/-- The colour of the pixel at bit `b` of the two bitplanes (R80, R145, D13). -/
def planeColour (hi lo : Byte) (b : Nat) : BitVec 2 := hi.extractLsb' b 1 ++ lo.extractLsb' b 1

/-- The pixel value `(palette << 2) | colour`, bits 7:4 zero (R82). -/
def pixelValue (palette colour : BitVec 2) : Byte := 0#4 ++ palette ++ colour

end Sys2Proof.Machine
end

