-- ==== Sys2Proof/Machine/Raster.lean ====
section
/-! DEFINITION. The raster algorithm (42_raster.md): the background pass, the sprite pass, and the video output. A scanline
is rendered from the state as it is when the step begins (R140); the passes write only a frame buffer, which they take
and give back, so the state they read is the one of the beginning. -/
namespace Sys2Proof.Machine

/-- `y = s + scroll_y`, a natural number that is not reduced (R141, D16). -/
def State.bgY (s : State) (line : Nat) : Nat := line + s.scrollY.toNat

/-- `tile_row = (y / 8) % 30` (R141). -/
def State.bgTileRow (s : State) (line : Nat) : Nat := s.bgY line / 8 % 30

/-- `col = (tile_column + scroll_x / 8) % 32`, the effective column (R142, D16). -/
def State.bgCol (s : State) (tileColumn : Nat) : Nat := (tileColumn + s.scrollX.toNat / 8) % 32

/-- The address of the low-plane byte: `bg_pattern_base + tile_id * 16 + fine_y` (R143). -/
def State.bgPatternAddr (s : State) (line tileColumn : Nat) : Nat :=
  s.bgPatternBase + (s.vramRead (s.ntBase + tileOffset (s.bgTileRow line) (s.bgCol tileColumn))).toNat * 16
    + s.bgY line % 8

/-- The palette number of a tile: its quadrant's field of its block's attribute byte, both by the effective column
(R144, D15). -/
def State.bgPalette (s : State) (line tileColumn : Nat) : BitVec 2 :=
  attrField (s.vramRead (s.ntBase + attrOffset (s.bgTileRow line) (s.bgCol tileColumn)))
    (quadrant (s.bgTileRow line) (s.bgCol tileColumn))

/-- The 8 pixels of one tile column, left to right (R145): every pixel is written, a colour of 0 included (D17). -/
def drawTile (line tileColumn : Nat) (pal : BitVec 2) (hi lo : Byte) (fb : Memory) : Memory :=
  (List.range 8).foldl
    (fun fb x => fb.write (fbIndex line (tileColumn * 8 + x)) (pixelValue pal (planeColour hi lo (7 - x)))) fb

/-- RENDER.BG (R141 to R145): the high-plane byte lies 8 above the low-plane byte (D13). -/
def State.backgroundPass (s : State) (line : Nat) (fb : Memory) : Memory :=
  (List.range 32).foldl
    (fun fb tileColumn =>
      let p := s.bgPatternAddr line tileColumn
      drawTile line tileColumn (s.bgPalette line tileColumn) (s.vramRead (p + 8)) (s.vramRead p) fb) fb

/-- A sprite's line, tile and attributes as OAM entry `i` holds them (R78). -/
def State.oamField (s : State) (i field : Nat) : Byte := s.oam.read (oamIndex i field)

/-- `sprite_y = OAM.y + 1`, a natural number that does not wrap (R148, D19). -/
def State.spriteY (s : State) (i : Nat) : Nat := (s.oamField i 0).toNat + 1

/-- Entry `i` is active on a scanline (R148). -/
def State.spriteActive (s : State) (line i : Nat) : Bool :=
  s.spriteY i ≤ line && line < s.spriteY i + s.spriteHeight && s.spriteY i < 240

/-- `row`: the line inside the sprite, mirrored when the entry flips vertically (R149, D19). -/
def State.spriteRow (s : State) (line i : Nat) : Nat :=
  if sprFlipV (s.oamField i 2) then s.spriteHeight - 1 - (line - s.spriteY i) else line - s.spriteY i

/-- The address of the sprite's low-plane byte (R149). A 16-high sprite takes its table from bit 0 of the tile index and an
even tile, and rows 8 to 15 follow the formula as it is written (D20, G7). -/
def State.spritePatternAddr (s : State) (line i : Nat) : Nat :=
  let tile := s.oamField i 1
  if s.ctrl.getLsbD 5 then
    (if tile.getLsbD 0 then 0x1000 else 0) + (tile &&& 0xFE#8).toNat * 16 + s.spriteRow line i
  else s.sprPatternBase + tile.toNat * 16 + s.spriteRow line i

/-- The bit of pixel `px`: from bit 7 down, or from bit 0 up when flipped horizontally (R150, D21). -/
def spriteBit (attr : Byte) (px : Nat) : Nat := if sprFlipH attr then px else 7 - px

/-- One sprite pixel (R151, R152): colour 0 and columns from 256 on are skipped (D40); a priority-set sprite writes only over
a byte of 0. -/
def drawSpritePixel (line : Nat) (attr : Byte) (x : Nat) (colour : BitVec 2) (fb : Memory) : Memory :=
  if colour = 0#2 then fb
  else if 256 ≤ x then fb
  else if !sprBehind attr || fb.read (fbIndex line x) == 0#8 then
    fb.write (fbIndex line x) (pixelValue (sprPalette attr) colour)
  else fb

/-- The 8 pixels of entry `i`, left to right (R149 to R152). -/
def State.drawSprite (s : State) (line i : Nat) (fb : Memory) : Memory :=
  let attr := s.oamField i 2
  let p := s.spritePatternAddr line i
  let hi := s.vramRead (p + 8)
  let lo := s.vramRead p
  (List.range 8).foldl
    (fun fb px =>
      drawSpritePixel line attr ((s.oamField i 3).toNat + px) (planeColour hi lo (spriteBit attr px)) fb) fb

/-- RENDER.SPR: the 64 entries in index order, each tested and drawn before the next (R146); no limit and no hit flag
(R153). -/
def State.spritePass (s : State) (line : Nat) (fb : Memory) : Memory :=
  (List.range 64).foldl (fun fb i => if s.spriteActive line i then s.drawSprite line i fb else fb) fb

/-- RENDER: the frame buffer after scanline `line` (R140). -/
def State.rendered (s : State) (line : Nat) : Memory :=
  let fb := if s.bgVisible then s.backgroundPass line s.fb else s.fb
  if s.sprVisible then s.spritePass line fb else fb

/-- `RenderScanline(line)` (R140): the frame buffer is the only state written. -/
def renderScanline (line : Nat) (s : State) : State := { s with fb := s.rendered line }

/-- `ColourCode(x, y)`, the 6-bit colour at the output (R154, D22, C1). -/
def State.colourCode (s : State) (x y : Nat) : BitVec 6 :=
  (s.pal.read ((s.pixel y x).toNat % 0x40)).extractLsb' 0 6

end Sys2Proof.Machine
end

