-- ==== Sys2Proof/WellFormed.lean ====
section
/-! DEFINITION. The operations a transaction word can select: the address of each lies where R41 and R71 put it. -/
namespace Sys2Proof

/-- `0x0000 <= a <= 0x1FFF`: CPU RAM (R41). -/
def inRam (a : Addr) : Bool := a.toNat < 0x2000

/-- `a` reaches port `p`: `0x2000 <= a <= 0x3FFF` and `a & 7 = p` (R44, R72). -/
def atPort (p : Nat) (a : Addr) : Bool := 0x2000 ≤ a.toNat && a.toNat < 0x4000 && a.toNat % 8 == p

/-- `0x4000 <= a <= 0x7FFF`, the range of the exact registers and of open bus (R41). -/
def inOpenRange (a : Addr) : Bool := 0x4000 ≤ a.toNat && a.toNat < 0x8000

/-- `0x8000 <= a <= 0xFFFF`: cartridge space (R41). -/
def inPrg (a : Addr) : Bool := 0x8000 ≤ a.toNat

/-- An operation's address is one that selects it (R71, with the priority of the exact rows). -/
def Instr.wellFormed : Instr → Bool
  | .ramR a | .ramW a _ => inRam a
  | .ctrlR a | .ctrlW a _ => atPort 0 a
  | .maskR a | .maskW a _ => atPort 1 a
  | .statusR a | .statusW a _ => atPort 2 a
  | .oamaddrR a | .oamaddrW a _ => atPort 3 a
  | .oamdataR a | .oamdataW a _ => atPort 4 a
  | .scrollR a | .scrollW a _ => atPort 5 a
  | .addrR a | .addrW a _ => atPort 6 a
  | .dataR a | .dataW a _ => atPort 7 a
  | .oamdmaW _ | .joy1R | .joy1W _ => true
  | .openR a => inOpenRange a && a != 0x4016#16
  | .openW a _ => inOpenRange a && a != 0x4014#16 && a != 0x4016#16
  | .prgR a | .prgW a _ => inPrg a
  | .seqActive | .seqPostrender | .seqVblank => true

end Sys2Proof
end

