-- ==== Sys2Proof/Decode.lean ====
section
/-! DEFINITION. The decoder of 30_encoding.md (R71, R72, R84), the encoder, and the opcode table as data. -/
namespace Sys2Proof

/-- A read transaction `R $a` (R87). -/
abbrev BusTxn.read (a : Addr) : BusTxn := ⟨0#1 ++ a, 0⟩

/-- A write transaction `W $a $v` (R87). -/
abbrev BusTxn.write (a : Addr) (v : Byte) : BusTxn := ⟨1#1 ++ a, v⟩

/-- Why bytes are no operation. The spec has no illegal transaction (R85); these are the strings of bytes that are no
transaction and no state code at all. -/
inductive DecodeError where
  /-- neither one byte (a state code) nor four bytes (a transaction) -/
  | badLength
  /-- a bit above `T[16]` is set: the transaction word has 17 bits (R70) -/
  | unusedBusBits
  /-- a bit above the 2-bit state code is set (R84) -/
  | unusedSeqBits
  /-- state code 3, which "does not occur" (R84) -/
  | noSuchSequencerState
  deriving DecidableEq, Repr

/-- What selects an operation: a transaction (R70), or the sequencer's state code (R84). -/
inductive OpWord where
  | bus (x : BusTxn)
  | seq (code : SeqCode)
  deriving DecidableEq, Repr

/-- The read operation of port `p` (R72). -/
def decodePortRead (p : Nat) (a : Addr) : Instr :=
  match p with
  | 0 => .ctrlR a
  | 1 => .maskR a
  | 2 => .statusR a
  | 3 => .oamaddrR a
  | 4 => .oamdataR a
  | 5 => .scrollR a
  | 6 => .addrR a
  | _ => .dataR a

/-- The write operation of port `p` (R72). -/
def decodePortWrite (p : Nat) (a : Addr) (v : Byte) : Instr :=
  match p with
  | 0 => .ctrlW a v
  | 1 => .maskW a v
  | 2 => .statusW a v
  | 3 => .oamaddrW a v
  | 4 => .oamdataW a v
  | 5 => .scrollW a v
  | 6 => .addrW a v
  | _ => .dataW a v

/-- The operation a read of `a` selects (R71's `Decode(0, A)`). -/
def decodeRead (a : Addr) : Instr :=
  if a.toNat < 0x2000 then .ramR a
  else if a.toNat < 0x4000 then decodePortRead (a.toNat % 8) a
  else if a = 0x4016#16 then .joy1R
  else if a.toNat < 0x8000 then .openR a
  else .prgR a

/-- The operation a write of `v` to `a` selects (R71's `Decode(1, A)`). -/
def decodeWrite (a : Addr) (v : Byte) : Instr :=
  if a.toNat < 0x2000 then .ramW a v
  else if a.toNat < 0x4000 then decodePortWrite (a.toNat % 8) a v
  else if a = 0x4014#16 then .oamdmaW v
  else if a = 0x4016#16 then .joy1W v
  else if a.toNat < 0x8000 then .openW a v
  else .prgW a v

/-- The direction `T[16]` of a transaction: `true` for a write (R70). -/
def BusTxn.isWrite (x : BusTxn) : Bool := x.word.getLsbD 16

/-- The address `T[15:0]` of a transaction (R70). -/
def BusTxn.addr (x : BusTxn) : Addr := x.word.extractLsb' 0 16

/-- The decode of a transaction; it is total (R71: every 17-bit word matches some row). -/
def decodeBus (x : BusTxn) : Instr :=
  if x.isWrite then decodeWrite x.addr x.data else decodeRead x.addr

/-- The decode of a state code (R84). -/
def decodeSeq (code : SeqCode) : Except DecodeError Instr :=
  match code.toNat with
  | 0 => .ok .seqActive
  | 1 => .ok .seqPostrender
  | 2 => .ok .seqVblank
  | _ => .error .noSuchSequencerState

def decodeWord : OpWord → Except DecodeError Instr
  | .bus x => .ok (decodeBus x)
  | .seq code => decodeSeq code

/-- An operation's word from bytes. The hardware stores no operation, so the layout is this model's (DESIGN CHOICE,
log 10): a state code is one byte; a transaction is the word `T` in three bytes, least significant first, then the data
byte. -/
def OpWord.ofBytes : List Byte → Except DecodeError OpWord
  | [c] => if c.toNat < 4 then .ok (.seq (c.extractLsb' 0 2)) else .error .unusedSeqBits
  | [t0, t1, t2, v] =>
    if t2.toNat < 2 then .ok (.bus ⟨t2.extractLsb' 0 1 ++ t1 ++ t0, v⟩) else .error .unusedBusBits
  | _ => .error .badLength

/-- The decoder, total on bytes: an operation or a rejection by name. -/
def decodeBytes (bs : List Byte) : Except DecodeError Instr :=
  match OpWord.ofBytes bs with
  | .ok w => decodeWord w
  | .error e => .error e

/-- The word that selects an operation: for a bus operation direction, address and data byte (zero for a read); for a
sequencer step its state code (R71's table, R84). -/
def encodeWord : Instr → OpWord
  | .ramR a | .ctrlR a | .maskR a | .statusR a | .oamaddrR a | .oamdataR a | .scrollR a | .addrR a | .dataR a
  | .openR a | .prgR a => .bus (.read a)
  | .ramW a v | .ctrlW a v | .maskW a v | .statusW a v | .oamaddrW a v | .oamdataW a v | .scrollW a v | .addrW a v
  | .dataW a v | .openW a v | .prgW a v => .bus (.write a v)
  | .oamdmaW v => .bus (.write 0x4014#16 v)
  | .joy1R => .bus (.read 0x4016#16)
  | .joy1W v => .bus (.write 0x4016#16 v)
  | .seqActive => .seq 0#2
  | .seqPostrender => .seq 1#2
  | .seqVblank => .seq 2#2

/-- The bytes of a word, in the layout of `OpWord.ofBytes`. -/
def OpWord.toBytes : OpWord → List Byte
  | .bus x => [x.word.extractLsb' 0 8, x.word.extractLsb' 8 8, (x.word.extractLsb' 16 1).zeroExtend 8, x.data]
  | .seq code => [code.zeroExtend 8]

/-- The encoder. -/
def encode (i : Instr) : List Byte := (encodeWord i).toBytes

/-- The bytes of an instruction whose bits are numbered as spec/opcode_table.json numbers them: a state code where the row
has at most 8 bits (format `SEQ`), otherwise a transaction word with a data byte of zero above it unless `w` gives one. -/
def tableBytes (nbits w : Nat) : List Byte :=
  if nbits ≤ 8 then [BitVec.ofNat 8 w]
  else [BitVec.ofNat 8 w, BitVec.ofNat 8 (w / 2 ^ 8), BitVec.ofNat 8 (w / 2 ^ 16), BitVec.ofNat 8 (w / 2 ^ 24)]

/-- The instruction the decoder reads from a word of the opcode table. -/
def decodeTableWord (nbits w : Nat) : Option Instr :=
  match decodeBytes (tableBytes nbits w) with
  | .ok i => some i
  | .error _ => none

/-- A `BUS` row of spec/opcode_table.json: the first row with `T & mask = match` is the operation (R71). -/
structure BusRow where
  mnemonic : String
  pattern : TWord
  mask : TWord
  deriving DecidableEq, Repr

/-- Whether a row matches a transaction word (R71). -/
def BusRow.hits (r : BusRow) (t : TWord) : Bool := (t &&& r.mask) == r.pattern

/-- The rows for RAM and the first four ports, as R71's table prints them. -/
def busRowsLow : List BusRow :=
  [⟨"RAM.R", 0x00000#17, 0x1E000#17⟩, ⟨"RAM.W", 0x10000#17, 0x1E000#17⟩,
   ⟨"CTRL.R", 0x02000#17, 0x1E007#17⟩, ⟨"CTRL.W", 0x12000#17, 0x1E007#17⟩,
   ⟨"MASK.R", 0x02001#17, 0x1E007#17⟩, ⟨"MASK.W", 0x12001#17, 0x1E007#17⟩,
   ⟨"STATUS.R", 0x02002#17, 0x1E007#17⟩, ⟨"STATUS.W", 0x12002#17, 0x1E007#17⟩,
   ⟨"OAMADDR.R", 0x02003#17, 0x1E007#17⟩, ⟨"OAMADDR.W", 0x12003#17, 0x1E007#17⟩]

/-- The rows for the other four ports. -/
def busRowsPorts : List BusRow :=
  [⟨"OAMDATA.R", 0x02004#17, 0x1E007#17⟩, ⟨"OAMDATA.W", 0x12004#17, 0x1E007#17⟩,
   ⟨"SCROLL.R", 0x02005#17, 0x1E007#17⟩, ⟨"SCROLL.W", 0x12005#17, 0x1E007#17⟩,
   ⟨"ADDR.R", 0x02006#17, 0x1E007#17⟩, ⟨"ADDR.W", 0x12006#17, 0x1E007#17⟩,
   ⟨"DATA.R", 0x02007#17, 0x1E007#17⟩, ⟨"DATA.W", 0x12007#17, 0x1E007#17⟩]

/-- The rows above 0x4000: the exact addresses before the catch-all rows (R71's priority). -/
def busRowsHigh : List BusRow :=
  [⟨"OAMDMA.W", 0x14014#17, 0x1FFFF#17⟩, ⟨"JOY1.R", 0x04016#17, 0x1FFFF#17⟩,
   ⟨"JOY1.W", 0x14016#17, 0x1FFFF#17⟩,
   ⟨"OPEN.R", 0x04000#17, 0x1C000#17⟩, ⟨"OPEN.W", 0x14000#17, 0x1C000#17⟩,
   ⟨"PRG.R", 0x08000#17, 0x18000#17⟩, ⟨"PRG.W", 0x18000#17, 0x18000#17⟩]

/-- The bus rows in decreasing priority (R71). -/
def busRows : List BusRow := busRowsLow ++ (busRowsPorts ++ busRowsHigh)

/-- The mnemonic of the first row that matches `t` (R71). -/
def tableMnemonic (t : TWord) : Option String := (busRows.find? (·.hits t)).map (·.mnemonic)

/-- The mnemonic of an operation in spec/opcode_table.json. -/
def Instr.mnemonic : Instr → String
  | .ramR _ => "RAM.R"
  | .ramW _ _ => "RAM.W"
  | .ctrlR _ => "CTRL.R"
  | .ctrlW _ _ => "CTRL.W"
  | .maskR _ => "MASK.R"
  | .maskW _ _ => "MASK.W"
  | .statusR _ => "STATUS.R"
  | .statusW _ _ => "STATUS.W"
  | .oamaddrR _ => "OAMADDR.R"
  | .oamaddrW _ _ => "OAMADDR.W"
  | .oamdataR _ => "OAMDATA.R"
  | .oamdataW _ _ => "OAMDATA.W"
  | .scrollR _ => "SCROLL.R"
  | .scrollW _ _ => "SCROLL.W"
  | .addrR _ => "ADDR.R"
  | .addrW _ _ => "ADDR.W"
  | .dataR _ => "DATA.R"
  | .dataW _ _ => "DATA.W"
  | .oamdmaW _ => "OAMDMA.W"
  | .joy1R => "JOY1.R"
  | .joy1W _ => "JOY1.W"
  | .openR _ => "OPEN.R"
  | .openW _ _ => "OPEN.W"
  | .prgR _ => "PRG.R"
  | .prgW _ _ => "PRG.W"
  | .seqActive => "SEQ.ACTIVE"
  | .seqPostrender => "SEQ.POSTRENDER"
  | .seqVblank => "SEQ.VBLANK"

end Sys2Proof
end

