-- ==== Sys2Proof/Machine/Mapper.lean ====
section
/-! DEFINITION. The mapper bank-switch controller (43_mapper_cartridge.md section 1). -/
namespace Sys2Proof.Machine

/-- `BankSelect(v)`: `chr_bank <- v mod bank_count` (R161). -/
def bankSelect (v : Byte) (s : State) : State := { s with chrBank := bankOf s.cart.bankCount v }

/-- `on_prg_write(A, v)`: the bank-switch-by-value mapper selects a bank; every other mapper accepts the write and ignores
it (R160, R162). The address takes no part (R88). -/
def onPrgWrite (_a : Addr) (v : Byte) (s : State) : State :=
  if s.cart.mapperId = s.params.bankselMapperId then bankSelect v s else s

end Sys2Proof.Machine
end

