-- ==== Sys2Proof/Machine/AddressBus.lean ====
section
/-! DEFINITION. The AddressBus operations (40_bus_operations.md): RAM, OAM DMA, the controller port, open bus, cartridge
space. Each operation is a total function of the state (R8, R90); its meaning answers that state. -/
namespace Sys2Proof.Machine

/-- RAM.R (R91). -/
def ramR (a : Addr) (s : State) : State := s.answer (s.ram.read (ramIndex a))

def execRamR (a : Addr) (s : State) : Host.Outcome State Fault Refusal := .next (ramR a s)

/-- RAM.W (R92). -/
def ramW (a : Addr) (v : Byte) (s : State) : State := { s with ram := s.ram.write (ramIndex a) v }

def execRamW (a : Addr) (v : Byte) (s : State) : Host.Outcome State Fault Refusal := .next (ramW a v s)

/-- OAMDMA.W (R97): 256 bytes of `RAM` to `OAM[0..255]`; `oam_addr` takes no part (D23). -/
def oamdmaW (v : Byte) (s : State) : State :=
  { s with oam := s.oam.fill 256 (fun i => s.ram.read (dmaSource v i)) }

def execOamdmaW (v : Byte) (s : State) : Host.Outcome State Fault Refusal := .next (oamdmaW v s)

/-- JOY1.R (R100). -/
def joy1R (s : State) : State :=
  { s with joyShift := shiftedOut s.params.ctrlShiftFill s.joyShift }.answer (controllerByte s.joyShift)

def execJoy1R (s : State) : Host.Outcome State Fault Refusal := .next (joy1R s)

/-- JOY1.W (R99): any non-zero byte polls the host and latches; zero does nothing (D24). -/
def joy1W (v : Byte) (s : State) : State :=
  if v = 0#8 then s
  else
    let polled := s.pollButtons
    { polled.2 with joyShift := buttonsByte polled.1 }

def execJoy1W (v : Byte) (s : State) : Host.Outcome State Fault Refusal := .next (joy1W v s)

/-- What an open-bus read returns (R96). -/
def openBusByte : Byte := 0xFF#8

/-- OPEN.R (R96). -/
def openR (_a : Addr) (s : State) : State := s.answer openBusByte

def execOpenR (a : Addr) (s : State) : Host.Outcome State Fault Refusal := .next (openR a s)

/-- OPEN.W: nothing (R98, D24, C5). -/
def openW (_a : Addr) (_v : Byte) (s : State) : State := s

def execOpenW (a : Addr) (v : Byte) (s : State) : Host.Outcome State Fault Refusal := .next (openW a v s)

/-- PRG.R (R101). -/
def prgR (a : Addr) (s : State) : State := s.answer (s.cart.data.read (prgOffset s.cart.prgSize a))

def execPrgR (a : Addr) (s : State) : Host.Outcome State Fault Refusal := .next (prgR a s)

/-- PRG.W (R102): the mapper's hook; `CART` is not changed (D26). -/
def prgW (a : Addr) (v : Byte) (s : State) : State := onPrgWrite a v s

def execPrgW (a : Addr) (v : Byte) (s : State) : Host.Outcome State Fault Refusal := .next (prgW a v s)

end Sys2Proof.Machine
end

