-- ==== Sys2Proof/Machine/Ports.lean ====
section
/-! DEFINITION. The PPU port operations (41_ppu_ports.md). The address only selects the port: bits 12:3 have no effect
(R93). -/
namespace Sys2Proof.Machine

/-- A read of a write-only port: `WO_READ_FILL`, no side effect (R112, R117, R121, R123, R126, D2). -/
def State.writeOnlyRead (s : State) : State := s.answer s.params.woReadFill

/-- `vram_addr <- (vram_addr + vram_inc) & 0x3FFF` (R128); the register has 14 bits, so its addition wraps. -/
def State.advanceVram (s : State) : State := { s with vramAddr := s.vramAddr + BitVec.ofNat 14 s.vramInc }

/-- CTRL.R (R112). -/
def ctrlR (_a : Addr) (s : State) : State := s.writeOnlyRead

def execCtrlR (a : Addr) (s : State) : Host.Outcome State Fault Refusal := .next (ctrlR a s)

/-- CTRL.W (R111): the control byte is updated before the NMI is requested (R200); the request needs a change of bit 7
from 0 to 1 while `VBL` is set (D32). -/
def ctrlW (_a : Addr) (v : Byte) (s : State) : State :=
  let t := { s with ctrl := v }
  if !s.nmiEnable && nmiBit v && s.vblank then t.requestNmi else t

def execCtrlW (a : Addr) (v : Byte) (s : State) : Host.Outcome State Fault Refusal := .next (ctrlW a v s)

/-- MASK.R (R126). -/
def maskR (_a : Addr) (s : State) : State := s.writeOnlyRead

def execMaskR (a : Addr) (s : State) : Host.Outcome State Fault Refusal := .next (maskR a s)

/-- MASK.W (R113). -/
def maskW (_a : Addr) (v : Byte) (s : State) : State := { s with mask := v }

def execMaskW (a : Addr) (v : Byte) (s : State) : Host.Outcome State Fault Refusal := .next (maskW a v s)

/-- STATUS.R (R114): the byte returned is the one before the clear. -/
def statusR (_a : Addr) (s : State) : State := ({ s with wLatch := false }.clearVblank).answer s.status

def execStatusR (a : Addr) (s : State) : Host.Outcome State Fault Refusal := .next (statusR a s)

/-- STATUS.W: nothing (R115, D3). -/
def statusW (_a : Addr) (_v : Byte) (s : State) : State := s

def execStatusW (a : Addr) (v : Byte) (s : State) : Host.Outcome State Fault Refusal := .next (statusW a v s)

/-- OAMADDR.R (R117). -/
def oamaddrR (_a : Addr) (s : State) : State := s.writeOnlyRead

def execOamaddrR (a : Addr) (s : State) : Host.Outcome State Fault Refusal := .next (oamaddrR a s)

/-- OAMADDR.W (R116). -/
def oamaddrW (_a : Addr) (v : Byte) (s : State) : State := { s with oamAddr := v }

def execOamaddrW (a : Addr) (v : Byte) (s : State) : Host.Outcome State Fault Refusal := .next (oamaddrW a v s)

/-- OAMDATA.R (R119). -/
def oamdataR (_a : Addr) (s : State) : State := s.answer (s.oam.read s.oamAddr.toNat)

def execOamdataR (a : Addr) (s : State) : Host.Outcome State Fault Refusal := .next (oamdataR a s)

/-- OAMDATA.W (R118). -/
def oamdataW (_a : Addr) (v : Byte) (s : State) : State :=
  { s with oam := s.oam.write s.oamAddr.toNat v, oamAddr := nextOamAddr s.oamAddr }

def execOamdataW (a : Addr) (v : Byte) (s : State) : Host.Outcome State Fault Refusal := .next (oamdataW a v s)

/-- SCROLL.R (R121). -/
def scrollR (_a : Addr) (s : State) : State := s.writeOnlyRead

def execScrollR (a : Addr) (s : State) : Host.Outcome State Fault Refusal := .next (scrollR a s)

/-- SCROLL.W (R120): X on the first write of a pair, Y on the second; the latch toggles. -/
def scrollW (_a : Addr) (v : Byte) (s : State) : State :=
  if s.wLatch then { s with scrollY := v, wLatch := false } else { s with scrollX := v, wLatch := true }

def execScrollW (a : Addr) (v : Byte) (s : State) : Host.Outcome State Fault Refusal := .next (scrollW a v s)

/-- ADDR.R (R123). -/
def addrR (_a : Addr) (s : State) : State := s.writeOnlyRead

def execAddrR (a : Addr) (s : State) : Host.Outcome State Fault Refusal := .next (addrR a s)

/-- ADDR.W (R122): the high 6 bits on the first write of a pair, the low 8 bits on the second; the latch toggles. -/
def addrW (_a : Addr) (v : Byte) (s : State) : State :=
  if s.wLatch then { s with vramAddr := withAddrLow s.vramAddr v, wLatch := false }
  else { s with vramAddr := withAddrHigh s.vramAddr v, wLatch := true }

def execAddrW (a : Addr) (v : Byte) (s : State) : Host.Outcome State Fault Refusal := .next (addrW a v s)

/-- DATA.R (R125): palette reads are immediate and leave the buffer (C3, D8); every other read returns the buffer and
refills it; the address always advances (C6). -/
def dataR (_a : Addr) (s : State) : State :=
  if 0x3F00 ≤ s.vramAddr.toNat then
    s.advanceVram.answer (s.pal.read (s.vramAddr.toNat % 0x40))
  else
    ({ s with readBuf := s.vramRead s.vramAddr.toNat }.advanceVram).answer s.readBuf

def execDataR (a : Addr) (s : State) : Host.Outcome State Fault Refusal := .next (dataR a s)

/-- DATA.W (R124): the store, then the advance; the buffer is not changed (D41). -/
def dataW (_a : Addr) (v : Byte) (s : State) : State := (s.vramWrite s.vramAddr.toNat v).advanceVram

def execDataW (a : Addr) (v : Byte) (s : State) : Host.Outcome State Fault Refusal := .next (dataW a v s)

end Sys2Proof.Machine
end

