-- ==== Sys2Proof/Machine/Transaction.lean ====
section
/-! DEFINITION. The AddressBus contract (20_memory.md R42, 40_bus_operations.md R90): a transaction selects exactly one
operation, performs it to completion, and for a read returns one byte; and the CPU engine's budget (00_scope.md R6). -/
namespace Sys2Proof.Machine

/-- The state after a bus operation. A sequencer step is no bus operation and no transaction decodes to one. -/
def busEffect (i : Instr) (s : State) : State :=
  match i with
  | .ramR a => ramR a s
  | .ramW a v => ramW a v s
  | .ctrlR a => ctrlR a s
  | .ctrlW a v => ctrlW a v s
  | .maskR a => maskR a s
  | .maskW a v => maskW a v s
  | .statusR a => statusR a s
  | .statusW a v => statusW a v s
  | .oamaddrR a => oamaddrR a s
  | .oamaddrW a v => oamaddrW a v s
  | .oamdataR a => oamdataR a s
  | .oamdataW a v => oamdataW a v s
  | .scrollR a => scrollR a s
  | .scrollW a v => scrollW a v s
  | .addrR a => addrR a s
  | .addrW a v => addrW a v s
  | .dataR a => dataR a s
  | .dataW a v => dataW a v s
  | .oamdmaW v => oamdmaW v s
  | .joy1R => joy1R s
  | .joy1W v => joy1W v s
  | .openR a => openR a s
  | .openW a v => openW a v s
  | .prgR a => prgR a s
  | .prgW a v => prgW a v s
  | .seqActive => s
  | .seqPostrender => s
  | .seqVblank => s

/-- One transaction, performed to completion: `BusRead` or `BusWrite` (R42, R90). -/
def busTransaction (s : State) (x : BusTxn) : State := busEffect (decodeBus x) s

/-- The transactions of one budget, one after another (R6). -/
def runBudget (xs : List BusTxn) (s : State) : State := xs.foldl busTransaction s

/-- `CPU.executeCycles(CYCLES_PER_SCANLINE)`: the call, and the transactions the CPU engine presents before it returns
(R6, D39). -/
def executeCycles (s : State) : State :=
  let budget := s.takeBudget
  runBudget budget.1 (budget.2.emit (.executeCycles s.params.cyclesPerScanline))

end Sys2Proof.Machine
end

