-- ==== Sys2Proof/Machine/Sequencer.lean ====
section
/-! DEFINITION. The frame sequencer (44_frame_sequencer.md). -/
namespace Sys2Proof.Machine

/-- SEQ.ACTIVE (R176): render the scanline, run the CPU's budget, advance. -/
def seqActive (s : State) : State :=
  let t := executeCycles (renderScanline s.scanline.toNat s)
  { t with scanline := s.scanline + 1#9 }

def execSeqActive (s : State) : Host.Outcome State Fault Refusal := .next (seqActive s)

/-- The vblank entry: the flag is set, then the NMI requested if it is enabled (R178, R181, D33). -/
def enterVblank (s : State) : State :=
  let t := s.setVblank
  if t.nmiEnable then t.requestNmi else t

/-- SEQ.POSTRENDER (R177): the budget, the frame to the host, then the vblank entry; a `close` ends the run before it
(R182, D35). -/
def seqPostrender (s : State) : State :=
  let presented := (executeCycles s).presentFrame
  match presented.1 with
  | .close => { presented.2 with halted := true }
  | .carryOn => { enterVblank presented.2 with scanline := 241#9 }

def execSeqPostrender (s : State) : Host.Outcome State Fault Refusal := .next (seqPostrender s)

/-- SEQ.VBLANK (R179): the budget, then the next scanline; at 260 the flag is cleared and the next frame begins
(R180, D33, C4). -/
def seqVblank (s : State) : State :=
  let t := executeCycles s
  if s.scanline = 260#9 then { t.clearVblank with scanline := 0#9 }
  else { t with scanline := s.scanline + 1#9 }

def execSeqVblank (s : State) : Host.Outcome State Fault Refusal := .next (seqVblank s)

/-- The state code of a scanline (R29, R84): Active, PostRender or VBlank; a value above 260, which no run reaches, is the
last branch of R175's dispatch (log 15). -/
def seqCodeOf (scanline : BitVec 9) : SeqCode :=
  if scanline.toNat ≤ 239 then 0#2 else if scanline.toNat = 240 then 1#2 else 2#2

/-- The step the sequencer takes at a scanline (R175). -/
def seqInstr (scanline : BitVec 9) : Instr :=
  if scanline.toNat ≤ 239 then .seqActive else if scanline.toNat = 240 then .seqPostrender else .seqVblank

/-- The first scanline of a state code (R29); code 3 selects none (R84). -/
def firstScanline (code : SeqCode) : Option (BitVec 9) :=
  match code.toNat with
  | 0 => some 0#9
  | 1 => some 240#9
  | 2 => some 241#9
  | _ => none

end Sys2Proof.Machine
end

