-- ==== Sys2Proof/Machine/Dispatch.lean ====
section
/-! DEFINITION. One arm per operation of spec/opcode_table.json. -/
namespace Sys2Proof.Machine

def exec (i : Instr) (s : State) : Host.Outcome State Fault Refusal :=
  match i with
  | .ramR a => Sys2Proof.Machine.execRamR a s
  | .ramW a v => Sys2Proof.Machine.execRamW a v s
  | .ctrlR a => Sys2Proof.Machine.execCtrlR a s
  | .ctrlW a v => Sys2Proof.Machine.execCtrlW a v s
  | .maskR a => Sys2Proof.Machine.execMaskR a s
  | .maskW a v => Sys2Proof.Machine.execMaskW a v s
  | .statusR a => Sys2Proof.Machine.execStatusR a s
  | .statusW a v => Sys2Proof.Machine.execStatusW a v s
  | .oamaddrR a => Sys2Proof.Machine.execOamaddrR a s
  | .oamaddrW a v => Sys2Proof.Machine.execOamaddrW a v s
  | .oamdataR a => Sys2Proof.Machine.execOamdataR a s
  | .oamdataW a v => Sys2Proof.Machine.execOamdataW a v s
  | .scrollR a => Sys2Proof.Machine.execScrollR a s
  | .scrollW a v => Sys2Proof.Machine.execScrollW a v s
  | .addrR a => Sys2Proof.Machine.execAddrR a s
  | .addrW a v => Sys2Proof.Machine.execAddrW a v s
  | .dataR a => Sys2Proof.Machine.execDataR a s
  | .dataW a v => Sys2Proof.Machine.execDataW a v s
  | .oamdmaW v => Sys2Proof.Machine.execOamdmaW v s
  | .joy1R => Sys2Proof.Machine.execJoy1R s
  | .joy1W v => Sys2Proof.Machine.execJoy1W v s
  | .openR a => Sys2Proof.Machine.execOpenR a s
  | .openW a v => Sys2Proof.Machine.execOpenW a v s
  | .prgR a => Sys2Proof.Machine.execPrgR a s
  | .prgW a v => Sys2Proof.Machine.execPrgW a v s
  | .seqActive => Sys2Proof.Machine.execSeqActive s
  | .seqPostrender => Sys2Proof.Machine.execSeqPostrender s
  | .seqVblank => Sys2Proof.Machine.execSeqVblank s

end Sys2Proof.Machine
end

