-- ==== Sys2Proof/Machine/Fetch.lean ====
section
/-! DEFINITION. What the machine does next: a transaction the CPU engine presents outside a budget, else the sequencer's own
step (44_frame_sequencer.md R175), else nothing once the run is over (log 1). -/
namespace Sys2Proof.Machine

/-- The next operation and the state it starts from; `none` when the run is over (R175, R182). -/
def fetch (s : State) : Option (Instr × State) :=
  match s.pending with
  | x :: rest => some (decodeBus x, { s with pending := rest })
  | [] => if s.halted then none else some (seqInstr s.scanline, s)

/-- `s` with a transaction presented next. -/
def presentBus (s : State) (w : Nat) : State :=
  { s with pending := ⟨BitVec.ofNat 17 w, BitVec.ofNat 8 (w / 2 ^ 24)⟩ :: s.pending }

/-- `s` with the sequencer about to take the step of state code `code`: no transaction waits, the run is not over, and
`scanline` has that code (it is kept where it has it already). Code 3 is no step and leaves `s` as it is. -/
def selectSeq (s : State) (code : SeqCode) : State :=
  match firstScanline code with
  | some n =>
    { s with pending := [], halted := false, scanline := if seqCodeOf s.scanline = code then s.scanline else n }
  | none => s

/-- `s` with the instruction of an opcode-table word placed where the next step takes its instruction from. -/
def placeWord (s : State) (nbits w : Nat) : State :=
  if nbits ≤ 8 then selectSeq s (BitVec.ofNat 2 w) else presentBus s w

end Sys2Proof.Machine
end

