-- ==== Sys2Proof/Machine/Step.lean ====
section
/-! DEFINITION. One step: the next operation is fetched and run. When the run is over nothing changes any more (R175,
R182). -/
namespace Sys2Proof.Machine

def step (s : State) : Host.Outcome State Fault Refusal :=
  match fetch s with
  | some (i, t) => exec i t
  | none => .next s

/-- `s` with the instruction of an opcode-table word where the next step takes it from: a transaction is presented next;
for a sequencer step the sequencer is put at a scanline of that state code (log 2). -/
def State.withFetchWord (s : State) (nbits w : Nat) : State := placeWord s nbits w

end Sys2Proof.Machine
end

