-- ==== Sys2Proof/Machine/Cartridge.lean ====
section
/-! DEFINITION. The cartridge loader (43_mapper_cartridge.md section 2), reset and boot (70_reset_and_hazards.md). -/
namespace Sys2Proof.Machine

/-- The failures before the hardware exists (R196). -/
inductive LoadError where
  | unreadableFile
  | invalidMagic
  | badGeometry
  deriving DecidableEq, Repr

/-- The 4-byte signature (R165, D29). -/
def magic : List Byte := [0x4E#8, 0x45#8, 0x53#8, 0x1A#8]

/-- A byte of the file; the fields of the header are single bytes (R164). -/
def fileByte (file : List Byte) (i : Nat) : Byte := file.getD i 0#8

/-- `prg_size = header[4] * 16384` (R166). -/
def headerPrgSize (file : List Byte) : Nat := (fileByte file 4).toNat * 16384

/-- `chr_size = header[5] * 8192` (R167). -/
def headerChrSize (file : List Byte) : Nat := (fileByte file 5).toNat * 8192

/-- `mirroring = header[6] & 1`: 1 is vertical, 0 horizontal (R168, D12). -/
def headerMirroring (file : List Byte) : Mirroring :=
  if (fileByte file 6).getLsbD 0 then .vertical else .horizontal

/-- `mapper_id = (header[7] & 0xF0) | (header[6] >> 4)` (R169, D28, C7). -/
def headerMapperId (file : List Byte) : Byte := (fileByte file 7 &&& 0xF0#8) ||| (fileByte file 6 >>> 4)

/-- The geometry R171 admits (D30). -/
def goodGeometry (file : List Byte) : Bool :=
  1 ≤ (fileByte file 4).toNat && 1 ≤ (fileByte file 5).toNat &&
    16 + headerPrgSize file + headerChrSize file ≤ file.length

/-- The image of an admitted file (R166 to R170): `CART[0]` is the byte after the 16-byte header (D30). -/
def cartridgeOf (file : List Byte) : Cartridge where
  prgSize := headerPrgSize file
  chrSize := headerChrSize file
  bankCount := headerChrSize file / 8192
  mirroring := headerMirroring file
  mapperId := headerMapperId file
  data := Memory.ofBytes 0 ((file.drop 16).take (headerPrgSize file + headerChrSize file))

/-- LOAD (R165, R171, R196): the file as the loader reads it, `none` when it cannot be read. -/
def loadCartridge : Option (List Byte) → Except LoadError Cartridge
  | none => .error .unreadableFile
  | some file =>
    if file.take 4 ≠ magic then .error .invalidMagic
    else if goodGeometry file then .ok (cartridgeOf file)
    else .error .badGeometry

/-- RESET (R215): every register and memory at its reset value, the cartridge and the parameters unchanged, and
`CPU.reset()` called last (D34). What the outside world will still present is not the hardware's to change. -/
def resetMachine (s : State) : State :=
  { State.resetWith s.cart s.params with
    pending := s.pending, budgets := s.budgets, buttons := s.buttons, answers := s.answers, drawn := s.drawn,
    trace := .cpuReset :: s.trace }

/-- Boot (R216): load, then the machine right after reset. -/
def boot (file : Option (List Byte)) (p : Params) : Except LoadError State :=
  match loadCartridge file with
  | .ok c => .ok (State.resetWith c p)
  | .error e => .error e

end Sys2Proof.Machine
end

