-- ==== Sys2Proof/Safety.lean ====
section
/-! DEFINITION. What a legal state is, in the terms the statements use: the invariants of 10_state.md R34 and of the
rules beside it, and the counts of what was sent out. -/
namespace Sys2Proof.Machine

/-- An admitted cartridge (R166, R167, R170, R171): whole PRG and CHR units, at least one of each, and data in canonical
form inside the image. -/
structure Cartridge.Legal (c : Cartridge) : Prop where
  prg_units : c.prgSize % 16384 = 0
  prg_some : 16384 ≤ c.prgSize
  chr_units : c.chrSize = c.bankCount * 8192
  chr_some : 1 ≤ c.bankCount
  data_wf : c.data.wf = true
  data_below : c.data.below (c.prgSize + c.chrSize) = true

/-- A memory of `n` cells in canonical form. -/
structure Memory.Sized (n : Nat) (m : Memory) : Prop where
  wf : m.wf = true
  below : m.below n = true

/-- The invariants of every reachable state (R34), with those the rules give beside them. -/
structure State.Inv (s : State) : Prop where
  /-- the cartridge is an admitted one (R171) -/
  cart : s.cart.Legal
  /-- `CYCLES_PER_SCANLINE` is a positive integer (R4) -/
  cycles : 1 ≤ s.params.cyclesPerScanline
  /-- `chr_bank < bank_count` (R26, R34) -/
  chrBank : s.chrBank < s.cart.bankCount
  /-- an unknown mapper leaves bank 0 selected for ever (R162) -/
  unknownMapper : s.cart.mapperId ≠ s.params.bankselMapperId → s.chrBank = 0
  /-- `status` is 0x00 or 0x80 (R14, R34) -/
  status : s.status = 0x00#8 ∨ s.status = 0x80#8
  /-- `scanline <= 260` (R34) -/
  scanline : s.scanline.toNat ≤ 260
  /-- `VBL` is 0 from the start of a frame to the post-render boundary (R176, R178, R222) -/
  vblankOnly : s.scanline.toNat ≤ 240 → s.status = 0x00#8
  /-- a run that is over stands at scanline 240 (R182) -/
  halted : s.halted = true → s.scanline.toNat = 240
  /-- every `FB` byte is at most 15 (R34, R82) -/
  pixels : s.fb.all (fun c => c.2.toNat ≤ 15) = true
  nt : s.nt.Sized 2048
  oam : s.oam.Sized 256
  pal : s.pal.Sized 64
  fb : s.fb.Sized 61440
  ram : s.ram.Sized 2048

/-- The background's pixel at column `x` of a scanline: that of tile column `x / 8`, pixel `x % 8` (R141 to R145). -/
def State.backgroundPixel (s : State) (line x : Nat) : Byte :=
  let p := s.bgPatternAddr line (x / 8)
  pixelValue (s.bgPalette line (x / 8)) (planeColour (s.vramRead (p + 8)) (s.vramRead p) (7 - x % 8))

/-- What OAM entry `i` makes of the byte `below` at column `x` of a scanline: an active entry that covers the column with a
colour other than 0 writes its pixel if its priority bit is clear or the byte is 0 (R148 to R152). -/
def State.spriteOver (s : State) (line x : Nat) (below : Byte) (i : Nat) : Byte :=
  let left := (s.oamField i 3).toNat
  let attr := s.oamField i 2
  let p := s.spritePatternAddr line i
  let colour := planeColour (s.vramRead (p + 8)) (s.vramRead p) (spriteBit attr (x - left))
  if s.spriteActive line i = true ∧ left ≤ x ∧ x < left + 8 ∧ colour ≠ 0#2 ∧ (sprBehind attr = false ∨ below = 0#8) then
    pixelValue (sprPalette attr) colour
  else below

/-- The pixel at column `x` of a scanline after both passes, computed for that pixel alone: the background's (or the old
byte, when the background is off), then the 64 entries in index order (R140, R146). -/
def State.composedPixel (s : State) (line x : Nat) : Byte :=
  let below := if s.bgVisible then s.backgroundPixel line x else s.pixel line x
  if s.sprVisible then (List.range 64).foldl (s.spriteOver line x) below else below

/-- How many NMIs have been requested since reset. -/
def State.nmiCount (s : State) : Nat := s.trace.countP (fun o => o == .raiseNmi)

/-- How many budgets the CPU engine has been given since reset. -/
def State.budgetCount (s : State) : Nat :=
  s.trace.countP (fun o => match o with | .executeCycles _ => true | _ => false)

/-- How many frames have been handed to the host since reset. -/
def State.frameCount (s : State) : Nat :=
  s.trace.countP (fun o => match o with | .presentFrame _ _ => true | _ => false)

end Sys2Proof.Machine
end

