-- ==== Sys2Proof/Certificates/Slice0/Obligations.lean ====
section
/-! DEFINITION. The statements about the model, for the provers. Each docstring names the sentence of the spec it
formalises; "derived" ones say what they rest on (D<n> is a decision of spec/92_eei_decisions.md, log n a row of
notes/assumptions). A free value (the counter `drawn`, a budget or an answer the input data does not give) is always
quantified, never named. -/

open Sys2Proof Sys2Proof.Machine

/-! ## Encoding and stepping -/

/-- Derived (R70, R71, R84; the byte layout is log 10): decoding the bytes of a well-formed operation gives it back, with every operand at
every value. -/
def Obligations.DecodeOfEncodeIsTheOperation : Prop :=
  ∀ i : Instr, i.wellFormed = true → decodeBytes (encode i) = .ok i

/-- Derived (R71: "Every 17-bit word matches some row: the decode is total."; keeping the ignored address bits is log 11):
every transaction selects a well-formed bus operation, and the operation's word is the transaction's, so no bit of a word is
dropped. -/
def Obligations.EveryTransactionSelectsOneOperation : Prop :=
  ∀ x : BusTxn, (decodeBus x).wellFormed = true ∧ (decodeBus x).isBus = true ∧
    encodeWord (decodeBus x) = .bus ⟨x.word, if x.isWrite then x.data else 0#8⟩

/-- R71: "Rows are listed in decreasing priority; the first row that matches is the operation." -/
def Obligations.DecodeIsTheFirstMatchingTableRow : Prop :=
  ∀ x : BusTxn, tableMnemonic x.word = some (decodeBus x).mnemonic

/-- Derived (R71's table and the trace of Program 3; the byte layout is log 10): words written out from the table select the
operations it names. -/
def Obligations.WordsOfTheTableSelectTheirOperations : Prop :=
  decodeBytes [0x05#8, 0x18#8, 0x00#8, 0x00#8] = .ok (.ramR 0x1805#16) ∧
  decodeBytes [0xF8#8, 0x3F#8, 0x01#8, 0x3F#8] = .ok (.ctrlW 0x3FF8#16 0x3F#8) ∧
  decodeBytes [0xFA#8, 0x3F#8, 0x00#8, 0x00#8] = .ok (.statusR 0x3FFA#16) ∧
  decodeBytes [0x14#8, 0x40#8, 0x01#8, 0x02#8] = .ok (.oamdmaW 0x02#8) ∧
  decodeBytes [0x14#8, 0x40#8, 0x00#8, 0x00#8] = .ok (.openR 0x4014#16) ∧
  decodeBytes [0x16#8, 0x40#8, 0x00#8, 0x00#8] = .ok .joy1R ∧
  decodeBytes [0xFF#8, 0xFF#8, 0x01#8, 0xFF#8] = .ok (.prgW 0xFFFF#16 0xFF#8) ∧
  decodeBytes [0x01#8] = .ok .seqPostrender ∧ decodeBytes [0x03#8] = .error .noSuchSequencerState

/-- Derived (R42, R90; that a transaction outside a budget waits in `pending` is log 1): a step performs the transaction
presented next, and takes it from the front of the queue. -/
def Obligations.StepPerformsThePresentedTransaction : Prop :=
  ∀ (s : State) (x : BusTxn) (rest : List BusTxn), s.pending = x :: rest →
    step s = exec (decodeBus x) { s with pending := rest }

/-- Derived (R175, R29, R84; the codes are D38, `halted` is D35, that no transaction waits is log 1): with no transaction
waiting, a step is the sequencer's step of its scanline, which is the one the scanline's state code decodes to, and nothing
once the run is over. -/
def Obligations.StepIsTheSequencerStepOfItsScanline : Prop :=
  ∀ s : State, s.pending = [] →
    (s.halted = true → step s = .next s) ∧
    (s.halted = false → s.scanline.toNat ≤ 239 →
      step s = exec .seqActive s ∧ seqCodeOf s.scanline = 0#2 ∧ decodeSeq 0#2 = .ok .seqActive) ∧
    (s.halted = false → s.scanline.toNat = 240 →
      step s = exec .seqPostrender s ∧ seqCodeOf s.scanline = 1#2 ∧ decodeSeq 1#2 = .ok .seqPostrender) ∧
    (s.halted = false → 241 ≤ s.scanline.toNat → s.scanline.toNat ≤ 260 →
      step s = exec .seqVblank s ∧ seqCodeOf s.scanline = 2#2 ∧ decodeSeq 2#2 = .ok .seqVblank)

/-- Derived (R195: "Every bus transaction and every sequencer step is total."): there is no fault to raise, and every
operation and every step answers a next state. -/
def Obligations.EveryOperationAndStepIsTotal : Prop :=
  (∀ _ : Fault, False) ∧ (∀ (i : Instr) (s : State), ∃ t, exec i s = .next t) ∧ ∀ s : State, ∃ t, step s = .next t

/-! ## Invariants and reset -/

/-- Derived (R34, R14, R26, R162, R176, R178, R182): every step from a legal state ends in a legal state, whatever the CPU engine and
the host do. -/
def Obligations.EveryStepKeepsTheLegalStates : Prop :=
  ∀ s t : State, s.Inv → step s = .next t → t.Inv

/-- Derived (R33; all reset values but the frame buffer's are D34, the cartridge is log 9): the reset state is legal. -/
def Obligations.TheResetStateIsLegal : Prop := State.reset.Inv

/-- Derived (R171, R216; D30): a machine booted from an admitted file is legal. -/
def Obligations.ABootedMachineIsLegal : Prop :=
  ∀ (file : Option (List Byte)) (p : Params) (s : State), 1 ≤ p.cyclesPerScanline → boot file p = .ok s → s.Inv

/-- Derived (R33, R215; zero but for the frame buffer is D34): RESET puts every register and every memory byte to its
reset value, keeps the cartridge, and calls `CPU.reset()`. -/
def Obligations.ResetSetsEveryRegisterAndByte : Prop :=
  ∀ s : State, ∃ t, t = resetMachine s ∧
    (t.ctrl = 0#8 ∧ t.mask = 0#8 ∧ t.status = 0#8 ∧ t.wLatch = false ∧ t.oamAddr = 0#8 ∧ t.vramAddr = 0#14 ∧
      t.scrollX = 0#8 ∧ t.scrollY = 0#8 ∧ t.readBuf = 0#8 ∧ t.joyShift = 0#8 ∧ t.chrBank = 0 ∧
      t.scanline = 0#9 ∧ t.halted = false) ∧
    (∀ y x, t.pixel y x = 0#8) ∧
    (∀ k, t.ram.read k = 0#8 ∧ t.nt.read k = 0#8 ∧ t.oam.read k = 0#8 ∧ t.pal.read k = 0#8) ∧
    t.cart = s.cart ∧ t.params = s.params ∧ t.trace = .cpuReset :: s.trace

/-! ## The AddressBus -/

/-- R91: RAM.R returns `RAM[A & 0x7FF]` and changes nothing. -/
def Obligations.RamReadReturnsTheCell : Prop :=
  ∀ (a : Addr) (s : State),
    exec (.ramR a) s = .next { s with trace := .returned (s.ram.read (a.toNat % 2048)) :: s.trace }

/-- R92: RAM.W stores `v` in `RAM[A & 0x7FF]`; "a write through any mirror changes the one cell; nothing else changes". -/
def Obligations.RamWriteChangesOneCell : Prop :=
  ∀ (a : Addr) (v : Byte) (s : State), ∃ t, exec (.ramW a v) s = .next t ∧ t = { s with ram := t.ram } ∧
    t.ram.read (a.toNat % 2048) = v ∧ ∀ k, k ≠ a.toNat % 2048 → t.ram.read k = s.ram.read k

/-- R43: "The four 2KB windows 0x0000, 0x0800, 0x1000, 0x1800 are the same 2048 cells": a byte written through one
address is read through every address of the same cell, and through no other. -/
def Obligations.RamMirrorsAreTheSameCells : Prop :=
  ∀ (a b : Addr) (v : Byte) (s t : State), a.toNat < 0x2000 → b.toNat < 0x2000 → exec (.ramW a v) s = .next t →
    exec (.ramR b) t = .next { t with
      trace := .returned (if a.toNat % 2048 = b.toNat % 2048 then v else s.ram.read (b.toNat % 2048)) :: t.trace }

/-- Derived (R97; the fold for pages from 8 on, the destination and the unchanged cursor are D23): OAM DMA copies 256 bytes
of RAM from `v << 8` to `OAM[0..255]` and changes nothing else. -/
def Obligations.OamDmaCopiesThePage : Prop :=
  ∀ (v : Byte) (s : State), ∃ t, exec (.oamdmaW v) s = .next t ∧ t = { s with oam := t.oam } ∧
    ∀ i, t.oam.read i = if i < 256 then s.ram.read ((v.toNat * 256 + i) % 2048) else s.oam.read i

/-- Derived (R99, R89; bit order and polarity are D25, the zero write D24): a non-zero strobe polls the host and latches
its 8 buttons, A in bit 0 to Right in bit 7; a zero write does nothing. -/
def Obligations.ControllerStrobeLatchesTheButtons : Prop :=
  ∀ (v : Byte) (s : State),
    (v = 0#8 → exec (.joy1W v) s = .next s) ∧
    (v ≠ 0#8 → ∃ (b : Buttons) (t : State), exec (.joy1W v) s = .next t ∧
      (∀ given, s.buttons.head? = some given → b = given) ∧
      t = { s with joyShift := t.joyShift, buttons := s.buttons.tail, drawn := t.drawn,
                   trace := .pollButtonStates :: s.trace } ∧
      (List.range 8).map (fun k => t.joyShift.getLsbD k) =
        [b.a, b.b, b.select, b.start, b.up, b.down, b.left, b.right])

/-- Derived (R100; the upper bits and the fill bit are D25): a controller read returns bit 0 of the shift register and
shifts it right, the parameter `CTRL_SHIFT_FILL` coming in at the top. -/
def Obligations.ControllerReadShiftsOneBitOut : Prop :=
  ∀ s : State, ∃ t, exec .joy1R s = .next t ∧
    t = { s with joyShift := t.joyShift,
                 trace := .returned (if s.joyShift.getLsbD 0 then 1#8 else 0#8) :: s.trace } ∧
    (∀ k, k < 7 → t.joyShift.getLsbD k = s.joyShift.getLsbD (k + 1)) ∧
    t.joyShift.getLsbD 7 = s.params.ctrlShiftFill

/-- Derived (R100: "the order of the 8 reads after a strobe is A, B, Select, Start, Up, Down, Left, Right"; D25): eight
reads of 0x4016, presented one after another, return the latched buttons in that order and leave eight fill bits. -/
def Obligations.EightControllerReadsReturnTheButtonsInOrder : Prop :=
  ∀ (s : State) (b : Buttons) (rest : List BusTxn), s.joyShift = buttonsByte b →
    s.pending = List.replicate 8 (BusTxn.read 0x4016#16) ++ rest →
    ∃ t : State, Host.Core.run Sys2Proof.core 8 s = .next t ∧
      t = { s with pending := rest, joyShift := t.joyShift, trace := t.trace } ∧
      (∀ k, k < 8 → t.joyShift.getLsbD k = s.params.ctrlShiftFill) ∧
      t.trace = ([b.right, b.left, b.down, b.up, b.start, b.select, b.b, b.a].map
        (fun pressed => Output.returned (if pressed then 1#8 else 0#8))) ++ s.trace

/-- Derived (R96, R98; the read of 0x4014 and the dropped writes are D24): an open-bus read returns 0xFF and an open-bus
write changes nothing. -/
def Obligations.OpenBusReadsFillAndDropsWrites : Prop :=
  ∀ (a : Addr) (v : Byte) (s : State),
    exec (.openR a) s = .next { s with trace := .returned 0xFF#8 :: s.trace } ∧ exec (.openW a v) s = .next s

/-- R101: PRG.R returns `CART[(A - 0x8000) mod prg_size]` and changes nothing. -/
def Obligations.PrgReadReturnsTheRomByte : Prop :=
  ∀ (a : Addr) (s : State), 0x8000 ≤ a.toNat →
    exec (.prgR a) s =
      .next { s with trace := .returned (s.cart.data.read ((a.toNat - 0x8000) % s.cart.prgSize)) :: s.trace }

/-- R161: "selected CHR bank = `value modulo bank_count`", and the redirection "takes effect for every CHR access after the write". -/
def Obligations.PrgWriteSelectsTheBankByValue : Prop :=
  ∀ (a : Addr) (v : Byte) (s : State), s.cart.mapperId = s.params.bankselMapperId →
    ∃ t, exec (.prgW a v) s = .next t ∧ t = { s with chrBank := v.toNat % s.cart.bankCount } ∧
      ∀ k, k < 0x2000 →
        t.vramRead k = s.cart.data.read (s.cart.prgSize + v.toNat % s.cart.bankCount * 0x2000 + k)

/-- R162: a mapper other than the worked example accepts the write and ignores it; "for every `mapper_id` other than
`BANKSEL_MAPPER_ID`, including 0, `chr_bank` stays 0 for ever": no step changes it. -/
def Obligations.UnknownMapperNeverSwitchesBanks : Prop :=
  ∀ s : State, s.cart.mapperId ≠ s.params.bankselMapperId →
    (∀ (a : Addr) (v : Byte), exec (.prgW a v) s = .next s) ∧
    ∀ t, step s = .next t → t.chrBank = s.chrBank ∧ t.cart.mapperId ≠ t.params.bankselMapperId

/-! ## The PPU ports -/

/-- Derived (R112, R115, R117, R121, R123, R126; the value and the absence of a side effect are D2, the ignored status write
D3): a read of a write-only port returns `WO_READ_FILL` and changes nothing, and a write to the read-only status port changes
nothing. -/
def Obligations.PortsWithoutADirectionChangeNothing : Prop :=
  ∀ (a : Addr) (v : Byte) (s : State),
    (∀ i, i ∈ [Instr.ctrlR a, .maskR a, .oamaddrR a, .scrollR a, .addrR a] →
      exec i s = .next { s with trace := .returned s.params.woReadFill :: s.trace }) ∧
    exec (.statusW a v) s = .next s

/-- Derived (R111, R200; that only a 0-to-1 change of bit 7 requests an NMI is D32): CTRL.W sets `ctrl`, and requests one
NMI when it turns NMI-enable on while the vblank flag is set; the request changes nothing else (R201). -/
def Obligations.ControlWriteSetsControlAndMayRequestNmi : Prop :=
  ∀ (a : Addr) (v : Byte) (s : State), exec (.ctrlW a v) s =
    .next { s with ctrl := v,
                   trace := (if s.ctrl.getLsbD 7 = false ∧ v.getLsbD 7 = true ∧ s.status.getLsbD 7 = true
                             then [Output.raiseNmi] else []) ++ s.trace }

/-- Derived (R113, R13, R140; that the other six bits have no function is D4, that a skipped pass leaves the row D17): MASK.W
sets `mask`; bit 3 is the background-visible flag, bit 4 the sprite-visible flag; the rows rendered next are the same for
every byte with those two bits, and unchanged when both are 0. -/
def Obligations.MaskWriteSetsTheVisibleFlags : Prop :=
  ∀ (a : Addr) (v : Byte) (s : State), ∃ t, exec (.maskW a v) s = .next t ∧ t = { s with mask := v } ∧
    t.bgVisible = v.getLsbD 3 ∧ t.sprVisible = v.getLsbD 4 ∧
    (∀ (w : Byte) (line : Nat), w.getLsbD 3 = v.getLsbD 3 → w.getLsbD 4 = v.getLsbD 4 →
      { s with mask := w }.rendered line = t.rendered line) ∧
    ∀ line, v.getLsbD 3 = false → v.getLsbD 4 = false → t.rendered line = s.fb

/-- R114: a status read returns the byte before the clear, clears the latch and `status[7]`, and changes nothing else. -/
def Obligations.StatusReadReturnsThenClears : Prop :=
  ∀ (a : Addr) (s : State), ∃ t, exec (.statusR a) s = .next t ∧
    t = { s with wLatch := false, status := t.status, trace := .returned s.status :: s.trace } ∧
    t.status.getLsbD 7 = false ∧ ∀ k, k ≠ 7 → t.status.getLsbD k = s.status.getLsbD k

/-- R116: OAMADDR.W: `oam_addr <- v`; nothing else changes. -/
def Obligations.OamAddressWriteSetsTheCursor : Prop :=
  ∀ (a : Addr) (v : Byte) (s : State), exec (.oamaddrW a v) s = .next { s with oamAddr := v }

/-- R118: OAMDATA.W stores at the cursor "and increment it modulo 256"; nothing else changes. -/
def Obligations.OamDataWriteStoresAndIncrements : Prop :=
  ∀ (a : Addr) (v : Byte) (s : State), ∃ t, exec (.oamdataW a v) s = .next t ∧
    t = { s with oam := t.oam, oamAddr := t.oamAddr } ∧ t.oamAddr.toNat = (s.oamAddr.toNat + 1) % 256 ∧
    t.oam.read s.oamAddr.toNat = v ∧ ∀ k, k ≠ s.oamAddr.toNat → t.oam.read k = s.oam.read k

/-- R119: OAMDATA.R returns the byte at the cursor "without advancing it"; nothing changes. -/
def Obligations.OamDataReadLeavesTheCursor : Prop :=
  ∀ (a : Addr) (s : State),
    exec (.oamdataR a) s = .next { s with trace := .returned (s.oam.read s.oamAddr.toNat) :: s.trace }

/-- R120: the first scroll write sets X, the second Y, and "a third write restarts the X/Y cycle". -/
def Obligations.ScrollWritesAlternate : Prop :=
  (∀ (a : Addr) (v : Byte) (s : State), exec (.scrollW a v) s =
    .next (if s.wLatch = true then { s with scrollY := v, wLatch := false }
           else { s with scrollX := v, wLatch := true })) ∧
  ∀ (a b c : Addr) (x y z : Byte) (s t u w : State), s.wLatch = false → exec (.scrollW a x) s = .next t →
    exec (.scrollW b y) t = .next u → exec (.scrollW c z) u = .next w →
    (u.scrollX = x ∧ u.scrollY = y ∧ u.wLatch = false) ∧ w.scrollX = z ∧ w.scrollY = y ∧ w.wLatch = true

/-- Derived (R122, R76; that the half not written keeps its value is D7): the first address write sets `vram_addr[13:8]`
to `v[5:0]`, the second `vram_addr[7:0]` to `v`; nothing else but the latch changes. -/
def Obligations.AddressWritesSetTheirHalf : Prop :=
  ∀ (a : Addr) (v : Byte) (s : State), ∃ t, exec (.addrW a v) s = .next t ∧
    t = { s with vramAddr := t.vramAddr, wLatch := !s.wLatch } ∧
    (s.wLatch = false → t.vramAddr.toNat = v.toNat % 64 * 256 + s.vramAddr.toNat % 256) ∧
    (s.wLatch = true → t.vramAddr.toNat = s.vramAddr.toNat / 256 * 256 + v.toNat)

/-- Derived (R124, R51; the dropped store below 0x2000 is D9, the 8-bit palette entry D10): DATA.W stores in the one cell
the map gives, or nowhere below 0x2000, then advances the address; nothing else changes. -/
def Obligations.DataWriteStoresThenAdvances : Prop :=
  ∀ (a : Addr) (v : Byte) (s : State), ∃ t, exec (.dataW a v) s = .next t ∧
    t = { s with nt := t.nt, pal := t.pal, vramAddr := t.vramAddr } ∧
    t.vramAddr.toNat = (s.vramAddr.toNat + if s.ctrl.getLsbD 2 then 32 else 1) % 0x4000 ∧
    (∀ k, t.nt.read k =
      if 0x2000 ≤ s.vramAddr.toNat ∧ s.vramAddr.toNat < 0x3F00 ∧ k = ntMap s.cart.mirroring s.vramAddr.toNat
      then v else s.nt.read k) ∧
    ∀ k, t.pal.read k =
      if 0x3F00 ≤ s.vramAddr.toNat ∧ k = s.vramAddr.toNat % 64 then v else s.pal.read k

/-- Derived (R125, C3, C6; that a palette read leaves the buffer is D8): DATA.R returns a palette byte at once, and else the
buffer, which it refills from the address before the advance; then the address advances; nothing else changes. -/
def Obligations.DataReadIsBufferedBelowThePalette : Prop :=
  ∀ (a : Addr) (s : State), ∃ t r, exec (.dataR a) s = .next t ∧
    t = { s with readBuf := t.readBuf, vramAddr := t.vramAddr, trace := .returned r :: s.trace } ∧
    t.vramAddr.toNat = (s.vramAddr.toNat + if s.ctrl.getLsbD 2 then 32 else 1) % 0x4000 ∧
    (0x3F00 ≤ s.vramAddr.toNat → r = s.pal.read (s.vramAddr.toNat % 64) ∧ t.readBuf = s.readBuf) ∧
    (s.vramAddr.toNat < 0x3F00 → r = s.readBuf ∧ t.readBuf = s.vramRead s.vramAddr.toNat)

/-- Derived (R125, R220): "one read of VRAM data lags by one call": of two data reads below the palette, the second
returns the byte at the address of the first. -/
def Obligations.DataReadLagsByOneCall : Prop :=
  ∀ (a b : Addr) (s t u : State), s.vramAddr.toNat < 0x3F00 → exec (.dataR a) s = .next t →
    t.vramAddr.toNat < 0x3F00 → exec (.dataR b) t = .next u →
    u.trace.head? = some (.returned (s.vramRead s.vramAddr.toNat))

/-- R128: both data-port accesses advance `vram_addr` by 1 or 32 modulo 0x4000 by `ctrl[2]` at the time of the access, and
no other port but the address port itself moves it. -/
def Obligations.DataPortAccessAdvancesByTheStep : Prop :=
  (∀ (a : Addr) (v : Byte) (s t : State) (i : Instr), i ∈ [Instr.dataR a, .dataW a v] → exec i s = .next t →
    t.vramAddr.toNat = (s.vramAddr.toNat + if s.ctrl.getLsbD 2 = true then 32 else 1) % 0x4000) ∧
  ∀ (i : Instr) (s t : State), i.isBus = true → (∀ a, i ≠ .dataR a) → (∀ a v, i ≠ .dataW a v) →
    (∀ a v, i ≠ .addrW a v) → exec i s = .next t → t.vramAddr = s.vramAddr

/-- Derived (R127: "SCROLL.W and ADDR.W each toggle it; STATUS.R clears it; reset clears it; nothing else touches it."; the
value at reset is D34, log 13 and 134; the address half that is kept is D7, log 107; the idle budget is log 3): who touches
the latch and how. A sequencer step touches it only through the transactions of its budget; and a scroll write followed by an
address write lands in the low half. -/
def Obligations.TheWriteLatchIsSharedByTwoPorts : Prop :=
  (∀ (a : Addr) (v : Byte) (s t : State) (i : Instr), i ∈ [Instr.scrollW a v, .addrW a v] → exec i s = .next t →
    t.wLatch = !s.wLatch) ∧
  (∀ (a : Addr) (s t : State), exec (.statusR a) s = .next t → t.wLatch = false) ∧
  (∀ s : State, (resetMachine s).wLatch = false) ∧
  (∀ (i : Instr) (s t : State), (∀ a v, i ≠ .scrollW a v) → (∀ a v, i ≠ .addrW a v) → (∀ a, i ≠ .statusR a) →
    (i.isBus = false → s.budgets.head? = some []) → exec i s = .next t → t.wLatch = s.wLatch) ∧
  ∀ (a b : Addr) (x y : Byte) (s t u : State), s.wLatch = false → exec (.scrollW a x) s = .next t →
    exec (.addrW b y) t = .next u →
    u.scrollX = x ∧ u.vramAddr.toNat = s.vramAddr.toNat / 256 * 256 + y.toNat ∧ u.wLatch = false

/-! ## Rules of the whole machine -/

/-- Derived (R58): no read but three has a side effect, and each of the three only its own: STATUS.R on `status` and the
latch, DATA.R on `read_buf` and `vram_addr`, JOY1.R on `joy_shift`; every other read only returns a byte. -/
def Obligations.OnlyThreeReadsHaveSideEffects : Prop :=
  ∀ (a : Addr) (s t : State),
    (∀ i, i ∈ [Instr.ramR a, .ctrlR a, .maskR a, .oamaddrR a, .oamdataR a, .scrollR a, .addrR a, .openR a, .prgR a] →
      exec i s = .next t → ∃ v, t = { s with trace := .returned v :: s.trace }) ∧
    (exec (.statusR a) s = .next t →
      ∃ v, t = { s with status := t.status, wLatch := t.wLatch, trace := .returned v :: s.trace }) ∧
    (exec (.dataR a) s = .next t →
      ∃ v, t = { s with readBuf := t.readBuf, vramAddr := t.vramAddr, trace := .returned v :: s.trace }) ∧
    (exec .joy1R s = .next t → ∃ v, t = { s with joyShift := t.joyShift, trace := .returned v :: s.trace })

/-- Derived (R204; D36): the CPU "cannot set `VBL`, cannot reach `FB`, `scanline` or `halted`, and cannot write `CART`":
no bus operation does. -/
def Obligations.TheBusCannotReachTheSequencerState : Prop :=
  ∀ (i : Instr) (s t : State), i.isBus = true → exec i s = .next t →
    t.fb = s.fb ∧ t.scanline = s.scanline ∧ t.halted = s.halted ∧ t.cart = s.cart ∧ t.params = s.params ∧
      (t.status.getLsbD 7 = true → s.status.getLsbD 7 = true)

/-- Derived (R28: "No operation of the hardware writes `CART`."; the parameters of R4 are constants too): no step changes
the cartridge or the parameters. -/
def Obligations.NoStepChangesTheCartridge : Prop :=
  ∀ s t : State, step s = .next t → t.cart = s.cart ∧ t.params = s.params

/-- Derived (R198 (b), R111; D32): a bus operation requests an NMI exactly when it makes `NMIE and VBL` go from false to
true, and then exactly one. -/
def Obligations.ABusOperationRequestsNmiOnTheRisingEdge : Prop :=
  ∀ (i : Instr) (s t : State), i.isBus = true → exec i s = .next t →
    t.nmiCount = s.nmiCount +
      if (s.ctrl.getLsbD 7 && s.status.getLsbD 7) = false ∧ (t.ctrl.getLsbD 7 && t.status.getLsbD 7) = true
      then 1 else 0

/-- Derived (R178: "`status[7]` is set to 1 at exactly one place: in the PostRender step"): a step that turns the vblank
flag on is the sequencer's step at scanline 240, and it leaves scanline 241. -/
def Obligations.OnlyPostRenderSetsTheVblankFlag : Prop :=
  ∀ s t : State, step s = .next t → s.status.getLsbD 7 = false → t.status.getLsbD 7 = true →
    s.pending = [] ∧ s.halted = false ∧ s.scanline = 240#9 ∧ t.scanline = 241#9

/-- Derived (R54, R140 "State written: row `s` of `FB` only", R155): a step that changes a pixel is an Active step, and the pixel
is in the row of its scanline. -/
def Obligations.OnlyTheRenderedRowChanges : Prop :=
  ∀ (s t : State) (y x : Nat), x < 256 → step s = .next t → t.pixel y x ≠ s.pixel y x →
    s.pending = [] ∧ s.halted = false ∧ s.scanline.toNat ≤ 239 ∧ y = s.scanline.toNat

/-! ## The sequencer -/

/-- Derived (R176; the budget of the input data, or any, is D39, log 3): SEQ.ACTIVE renders the scanline, then runs the CPU's
budget, then advances. -/
def Obligations.ActiveStepRendersRunsAdvances : Prop :=
  ∀ s : State, s.scanline.toNat ≤ 239 → ∃ (xs : List BusTxn) (d : Nat) (t : State), exec .seqActive s = .next t ∧
    (∀ given, s.budgets.head? = some given → xs = given) ∧
    t.scanline.toNat = s.scanline.toNat + 1 ∧
    t = { runBudget xs { s with fb := s.rendered s.scanline.toNat, budgets := s.budgets.tail, drawn := d,
                                trace := .executeCycles s.params.cyclesPerScanline :: s.trace } with
          scanline := t.scanline }

/-- Derived (R177, R154, R178, R181, R182, R200; the moment of the NMI is D33, what `close` does D35, the opaque table D22,
log 18): SEQ.POSTRENDER runs the budget, hands the frame and `MASTER_RGB` to the host, and then, on `continue`, sets `VBL`, requests the NMI if it is enabled, and goes to
scanline 241; on `close` it only sets `halted`. -/
def Obligations.PostRenderStepPresentsThenEntersVblank : Prop :=
  ∀ s : State, ∃ (xs : List BusTxn) (d e : Nat) (answer : HostAnswer) (t u : State), exec .seqPostrender s = .next t ∧
    (∀ given, s.budgets.head? = some given → xs = given) ∧
    (∀ given, s.answers.head? = some given → answer = given) ∧
    u = runBudget xs { s with budgets := s.budgets.tail, drawn := d,
                              trace := .executeCycles s.params.cyclesPerScanline :: s.trace } ∧
    (answer = .close → t = { u with halted := true, answers := s.answers.tail, drawn := e,
                                    trace := .presentFrame s.fb Config.masterRgb :: u.trace }) ∧
    (answer = .carryOn → t = { u with
      status := u.status ||| 0x80#8, scanline := 241#9, answers := s.answers.tail, drawn := e,
      trace := (if u.ctrl.getLsbD 7 = true then [Output.raiseNmi] else []) ++ .presentFrame s.fb Config.masterRgb :: u.trace })

/-- Derived (R179, R180; the frame-boundary clear is D33, C4): SEQ.VBLANK runs the budget and advances; at 260 it clears
`VBL` and goes to scanline 0; it requests no NMI itself. -/
def Obligations.VblankStepRunsThenAdvancesOrWraps : Prop :=
  ∀ s : State, 241 ≤ s.scanline.toNat → s.scanline.toNat ≤ 260 → ∃ (xs : List BusTxn) (d : Nat) (t u : State),
    exec .seqVblank s = .next t ∧ (∀ given, s.budgets.head? = some given → xs = given) ∧
    u = runBudget xs { s with budgets := s.budgets.tail, drawn := d,
                              trace := .executeCycles s.params.cyclesPerScanline :: s.trace } ∧
    (s.scanline.toNat = 260 → t = { u with status := t.status, scanline := 0#9 } ∧ t.status.getLsbD 7 = false ∧
      ∀ k, k ≠ 7 → t.status.getLsbD k = u.status.getLsbD k) ∧
    (s.scanline.toNat ≠ 260 → t = { u with scanline := t.scanline } ∧ t.scanline.toNat = s.scanline.toNat + 1)

/-- Derived (R6, R42; the queue is log 1): the transactions of a budget have the effect of the same transactions presented
one step at a time. -/
def Obligations.ABudgetIsItsTransactionsInTurn : Prop :=
  ∀ (xs : List BusTxn) (s : State),
    Host.Core.run Sys2Proof.core xs.length { s with pending := xs } = .next { runBudget xs s with pending := [] }

/-- Derived (R62, R176, R221): "nothing the CPU does in this step affects row `s`": the frame buffer after an Active step is the
same whatever transactions its budget holds. -/
def Obligations.TheBudgetDoesNotReachTheRenderedRow : Prop :=
  ∀ (s t u : State) (xs ys : List BusTxn) (moreX moreY : List (List BusTxn)), s.scanline.toNat ≤ 239 →
    exec .seqActive { s with budgets := xs :: moreX } = .next t →
    exec .seqActive { s with budgets := ys :: moreY } = .next u →
    t.fb = u.fb ∧ t.fb = s.rendered s.scanline.toNat

/-- Derived (R183, R178, R180; the clear at the frame boundary is D33, that no transaction waits is log 1, the host's answer
log 5): a frame the host does not close is 261 steps: from scanline 0 back to scanline 0, with 261 budgets, one frame
presented, and the vblank flag clear again, whatever the CPU engine does. -/
def Obligations.AFrameIs261Steps : Prop :=
  ∀ s : State, s.pending = [] → s.halted = false → s.scanline = 0#9 → s.answers.head? = some .carryOn →
    ∃ t : State, Host.Core.run Sys2Proof.core 261 s = .next t ∧ t.pending = [] ∧ t.halted = false ∧ t.scanline = 0#9 ∧
      t.status.getLsbD 7 = false ∧ t.answers = s.answers.tail ∧
      t.budgetCount = s.budgetCount + 261 ∧ t.frameCount = s.frameCount + 1

/-! ## Raster -/

/-- Derived (R141 to R145; D5, D6, D13 to D17): with the background shown and the sprites off, every pixel of the rendered row is
`(palette << 2) | colour` of the tile the scroll selects, written out in numbers. -/
def Obligations.BackgroundPixelsAreTheTilesUnderTheScroll : Prop :=
  ∀ (s : State) (x : Nat), s.scanline.toNat ≤ 239 → x < 256 → s.mask.getLsbD 3 = true → s.mask.getLsbD 4 = false →
    ∃ t, exec .seqActive s = .next t ∧
      ∃ (y row col base p q : Nat) (tile attr lo hi : Byte),
        y = s.scanline.toNat + s.scrollY.toNat ∧ row = y / 8 % 30 ∧ col = (x / 8 + s.scrollX.toNat / 8) % 32 ∧
        base = 0x2000 + 0x400 * (s.ctrl.toNat % 4) ∧ tile = s.vramRead (base + row * 32 + col) ∧
        p = (if s.ctrl.getLsbD 4 = true then 0x1000 else 0) + tile.toNat * 16 + y % 8 ∧
        lo = s.vramRead p ∧ hi = s.vramRead (p + 8) ∧
        attr = s.vramRead (base + 0x3C0 + row / 4 * 8 + col / 4) ∧ q = row % 4 / 2 * 2 + col % 4 / 2 ∧
        (t.pixel s.scanline.toNat x).toNat =
          attr.toNat / 2 ^ (2 * q) % 4 * 4 + hi.toNat / 2 ^ (7 - x % 8) % 2 * 2 + lo.toNat / 2 ^ (7 - x % 8) % 2

/-- Derived (R140, R146 to R152; D17 to D21, D40): the two passes, which draw tile by tile and sprite by sprite into the frame
buffer, give each pixel of the row the value composed for that pixel alone. -/
def Obligations.RasterPassesComposeEachPixel : Prop :=
  ∀ (s : State) (x : Nat), s.scanline.toNat ≤ 239 → x < 256 → ∃ t, exec .seqActive s = .next t ∧
    t.pixel s.scanline.toNat x = s.composedPixel s.scanline.toNat x

/-- R152: a sprite pixel is written "if the sprite's priority bit is clear OR the destination pixel is still the default
background color 0"; colour 0 and columns from 256 on are skipped (R151). The bit's position is D18 and the value's form
D21, so this is derived. -/
def Obligations.SpritePriorityDecidesTheWrite : Prop :=
  ∀ (line x k : Nat) (attr : Byte) (colour : BitVec 2) (fb : Memory),
    ((drawSpritePixel line attr x colour fb).read k).toNat =
      if k = line * 256 + x ∧ colour ≠ 0#2 ∧ x < 256 ∧ (attr.getLsbD 5 = false ∨ fb.read (line * 256 + x) = 0#8)
      then attr.toNat % 4 * 4 + colour.toNat else (fb.read k).toNat

/-- Derived (R148; that `sprite_y` does not wrap is D19): which entries are active: never one with `y >= 239`, none on scanline
0, and else those whose lines `y + 1 .. y + height` hold the scanline. -/
def Obligations.SpriteActivityFollowsItsLines : Prop :=
  ∀ (s : State) (line i : Nat), s.spriteActive line i = true ↔
    (s.oam.read (4 * i)).toNat < 239 ∧ (s.oam.read (4 * i)).toNat < line ∧
      line ≤ (s.oam.read (4 * i)).toNat + (if s.ctrl.getLsbD 5 = true then 16 else 8)

/-- Derived (R149; D5, D18, D20): the pattern address of an active sprite, for 8-high sprites with the control byte's table, for 16-high
sprites with the table of tile bit 0 and an even tile, rows counted from the bottom when flipped. -/
def Obligations.SpritePatternAddressFollowsItsHeight : Prop :=
  ∀ (s : State) (line i : Nat), s.spriteActive line i = true →
    ∃ (fy row : Nat) (tile attr : Byte), tile = s.oam.read (4 * i + 1) ∧ attr = s.oam.read (4 * i + 2) ∧
      fy = line - ((s.oam.read (4 * i)).toNat + 1) ∧
      (s.ctrl.getLsbD 5 = false → row = (if attr.getLsbD 7 = true then 7 - fy else fy) ∧ row < 8 ∧
        s.spritePatternAddr line i = (if s.ctrl.getLsbD 3 = true then 0x1000 else 0) + tile.toNat * 16 + row) ∧
      (s.ctrl.getLsbD 5 = true → row = (if attr.getLsbD 7 = true then 15 - fy else fy) ∧ row < 16 ∧
        s.spritePatternAddr line i = tile.toNat % 2 * 0x1000 + tile.toNat / 2 * 2 * 16 + row) ∧
      s.spritePatternAddr line i + 8 < 0x2000

/-- Derived (R154; the function is D22): the colour of an output pixel is the low 6 bits of the palette entry its value
names, the entry the video address 0x3F00 + value reaches. -/
def Obligations.OutputColourIsThePaletteEntryOfThePixel : Prop :=
  ∀ (s : State) (x y : Nat), s.Inv →
    (s.colourCode x y).toNat = (s.pal.read (s.pixel y x).toNat).toNat % 64 ∧
    (s.colourCode x y).toNat = (s.vramRead (0x3F00 + (s.pixel y x).toNat)).toNat % 64

/-! ## The video address space and the cartridge -/

/-- Derived (R52; the formulas are D11, which value is vertical D12): the model's fold is R52's, with its bit operations, and it
stays inside `NT`. -/
def Obligations.NametableFoldIsTheSpecsFormula : Prop :=
  ∀ a : Nat,
    ntMap .vertical a = (((a - 0x2000) &&& 0x0FFF) &&& 0x7FF) ∧
    ntMap .horizontal a = (((((a - 0x2000) &&& 0x0FFF) >>> 11) <<< 10) ||| (((a - 0x2000) &&& 0x0FFF) &&& 0x3FF)) ∧
    ntMap .vertical a < 2048 ∧ ntMap .horizontal a < 2048

/-- Derived (R50, R51, R47; D9, D10): a `VramRead` after a `VramWrite` gives the byte written where both reach the same nametable or
palette cell, and the old byte everywhere else, the pattern tables included. -/
def Obligations.VramReadAfterVramWrite : Prop :=
  ∀ (s : State) (a b : Nat) (v : Byte), a < 0x4000 → b < 0x4000 →
    (s.vramWrite a v).vramRead b =
      if (0x2000 ≤ a ∧ a < 0x3F00 ∧ 0x2000 ≤ b ∧ b < 0x3F00 ∧ ntMap s.cart.mirroring a = ntMap s.cart.mirroring b) ∨
         (0x3F00 ≤ a ∧ 0x3F00 ≤ b ∧ a % 64 = b % 64)
      then v else s.vramRead b

/-- Derived (R49: "Each of the 64 entries is a separate cell.", R50, R51; that an entry keeps and gives back all 8 bits is
D10, log 110): all of 0x3F00-0x3FFF reaches `PAL[a & 0x3F]`. -/
def Obligations.PaletteEntriesAreSeparateCells : Prop :=
  ∀ (s : State) (a b : Nat) (v : Byte), 0x3F00 ≤ a → a ≤ 0x3FFF → 0x3F00 ≤ b → b ≤ 0x3FFF →
    s.vramRead a = s.pal.read (a % 64) ∧
    (s.vramWrite a v).vramRead b = if a % 64 = b % 64 then v else s.vramRead b

/-- Derived (R166, R167, R170, R28; that `CART[0]` is file byte 16 is D30, log 130): the loader's `prg_size` is
`header[4] * 16384`, `bank_count` is `header[5]`, and `CART` is the bytes that follow the header, PRG first. -/
def Obligations.LoaderDerivesTheSizesFromTheHeader : Prop :=
  ∀ (file : List Byte) (c : Cartridge), loadCartridge (some file) = .ok c →
    c.prgSize = (fileByte file 4).toNat * 16384 ∧ c.bankCount = (fileByte file 5).toNat ∧
    c.chrSize / 8192 = c.bankCount ∧
    ∀ k, k < c.prgSize + c.chrSize → c.data.read k = fileByte file (16 + k)

/-- Derived (R168, R169; D12, D28): the loader's mirroring is the low bit of header byte 6, its mapper id the high nibbles of bytes 7
and 6. -/
def Obligations.LoaderDerivesMirroringAndMapper : Prop :=
  ∀ (file : List Byte) (c : Cartridge), loadCartridge (some file) = .ok c →
    (c.mirroring = .vertical ↔ (fileByte file 6).toNat % 2 = 1) ∧
    c.mapperId.toNat = (fileByte file 7).toNat / 16 * 16 + (fileByte file 6).toNat / 16

/-- Derived (R165, R171, R196; the four bytes are D29, the geometry D30; that a wrong signature is named also where the
geometry is bad rests on the checking order of log 17): exactly the files with the signature, at least one PRG and one CHR
unit, and all their bytes are admitted; a wrong signature and an unreadable file are refused by name. -/
def Obligations.LoaderAdmitsExactlyTheWellFormedFiles : Prop :=
  loadCartridge none = .error .unreadableFile ∧
  ∀ file : List Byte,
    ((∃ c, loadCartridge (some file) = .ok c) ↔
      file.take 4 = [0x4E#8, 0x45#8, 0x53#8, 0x1A#8] ∧ 1 ≤ (fileByte file 4).toNat ∧ 1 ≤ (fileByte file 5).toNat ∧
        16 + (fileByte file 4).toNat * 16384 + (fileByte file 5).toNat * 8192 ≤ file.length) ∧
    (file.take 4 ≠ [0x4E#8, 0x45#8, 0x53#8, 0x1A#8] → loadCartridge (some file) = .error .invalidMagic)
end

