-- ==== Sys2Proof/Laws/Memory.lean ====
section
/-! SUPPORT. The laws of memory: a read after a write, and that every operation keeps the canonical form, the size of the
space and any bound on the bytes. The read laws need no canonical form. -/
namespace Sys2Proof.Machine

@[simp] theorem Memory.read_nil (a : Nat) : Memory.read [] a = 0#8 := rfl

theorem Memory.read_erase (m : Memory) (a b : Nat) : (m.erase a).read b = if b = a then 0#8 else m.read b := by
  induction m with
  | nil => simp [Memory.erase]
  | cons c m ih => obtain ⟨k, v⟩ := c; grind [Memory.erase, Memory.read]

theorem Memory.mem_erase (m : Memory) (a : Nat) (c : Host.Cell) : c ∈ m.erase a ↔ c ∈ m ∧ c.1 ≠ a := by
  induction m with
  | nil => simp [Memory.erase]
  | cons d m ih => obtain ⟨k, v⟩ := d; grind [Memory.erase]

theorem Memory.mem_insert (m : Memory) (a : Nat) (v : Byte) (c : Host.Cell) :
    c ∈ m.insert a v ↔ c = (a, v) ∨ c ∈ m := by
  induction m with
  | nil => simp [Memory.insert]
  | cons d m ih => obtain ⟨k, w⟩ := d; grind [Memory.insert]

theorem Memory.read_insert (m : Memory) (a b : Nat) (v : Byte) (h : ∀ c ∈ m, c.1 ≠ a) :
    (m.insert a v).read b = if b = a then v else m.read b := by
  induction m with
  | nil => grind [Memory.insert, Memory.read]
  | cons d m ih =>
    obtain ⟨k, w⟩ := d
    have hk : k ≠ a := h (k, w) (by simp)
    have hm := ih (fun c hc => h c (by simp [hc]))
    grind [Memory.insert, Memory.read]

/-- A read after a write: the byte written at its address, everything else as before. -/
theorem Memory.read_write (m : Memory) (a b : Nat) (v : Byte) :
    (m.write a v).read b = if b = a then v else m.read b := by
  unfold Memory.write
  split
  · rename_i h; rw [Memory.read_erase, h]; rfl
  · rw [Memory.read_insert _ _ _ _ (fun c hc => ((Memory.mem_erase m a c).1 hc).2), Memory.read_erase]
    split <;> rfl

@[simp] theorem Memory.read_write_same (m : Memory) (a : Nat) (v : Byte) : (m.write a v).read a = v := by
  simp [Memory.read_write]

theorem Memory.read_write_other (m : Memory) {a b : Nat} (v : Byte) (h : b ≠ a) :
    (m.write a v).read b = m.read b := by simp [Memory.read_write, h]

theorem Memory.mem_write (m : Memory) (a : Nat) (v : Byte) (c : Host.Cell) (h : c ∈ m.write a v) :
    c = (a, v) ∨ c ∈ m := by
  unfold Memory.write at h
  split at h
  · exact .inr ((Memory.mem_erase m a c).1 h).1
  · rcases (Memory.mem_insert _ a v c).1 h with h | h
    · exact .inl h
    · exact .inr ((Memory.mem_erase m a c).1 h).1

/-- A bound on every listed cell survives a write of a cell that meets it. -/
theorem Memory.all_write (p : Host.Cell → Bool) (m : Memory) (a : Nat) (v : Byte) (hm : m.all p = true)
    (ha : p (a, v) = true) : (m.write a v).all p = true := by
  rw [List.all_eq_true] at *
  intro c hc
  rcases Memory.mem_write m a v c hc with rfl | h
  · exact ha
  · exact hm c h

theorem Memory.below_write {n : Nat} (m : Memory) (a : Nat) (v : Byte) (hm : m.below n = true) (ha : a < n) :
    (m.write a v).below n = true :=
  Memory.all_write _ m a v hm (by simpa using ha)

theorem Memory.risesFrom_mono {a b : Nat} (h : a ≤ b) : ∀ m : Memory, Memory.risesFrom b m = true →
    Memory.risesFrom a m = true
  | [], _ => rfl
  | (k, v) :: m, hm => by
    simp only [Memory.risesFrom, Bool.and_eq_true, decide_eq_true_eq] at *
    exact ⟨⟨by omega, hm.1.2⟩, hm.2⟩

theorem Memory.risesFrom_erase (m : Memory) : ∀ (a b : Nat), Memory.risesFrom b m = true →
    Memory.risesFrom b (m.erase a) = true := by
  induction m with
  | nil => intro a b _; rfl
  | cons c m ih =>
    obtain ⟨k, v⟩ := c
    intro a b h
    simp only [Memory.risesFrom, Bool.and_eq_true, decide_eq_true_eq] at h
    unfold Memory.erase
    split
    · exact ih a b (Memory.risesFrom_mono (by omega) m h.2)
    · simp [Memory.risesFrom, ih a k h.2]; simpa using h.1

theorem Memory.risesFrom_insert (m : Memory) : ∀ (a b : Nat) (v : Byte), v ≠ Memory.unlisted → b < a →
    Memory.risesFrom b m = true → (∀ c ∈ m, c.1 ≠ a) → Memory.risesFrom b (m.insert a v) = true := by
  induction m with
  | nil => intro a b v hv hb _ _; simp [Memory.insert, Memory.risesFrom, hb, hv]
  | cons c m ih =>
    obtain ⟨k, w⟩ := c
    intro a b v hv hb h hn
    simp only [Memory.risesFrom, Bool.and_eq_true, decide_eq_true_eq] at h
    unfold Memory.insert
    split
    · rename_i hak
      simp only [Memory.risesFrom, Bool.and_eq_true, decide_eq_true_eq]
      exact ⟨⟨hb, by simpa using hv⟩, ⟨hak, h.1.2⟩, h.2⟩
    · rename_i hak
      have hk : k ≠ a := hn (k, w) (by simp)
      simp only [Memory.risesFrom, Bool.and_eq_true, decide_eq_true_eq]
      exact ⟨h.1, ih a k v hv (by omega) h.2 (fun c hc => hn c (by simp [hc]))⟩

theorem Memory.wf_cons (k : Nat) (v : Byte) (m : Memory) :
    Memory.wf ((k, v) :: m) = true ↔ v ≠ Memory.unlisted ∧ Memory.risesFrom k m = true := by
  simp [Memory.wf]

theorem Memory.wf_of_risesFrom {a : Nat} {m : Memory} (h : Memory.risesFrom a m = true) : m.wf = true := by
  cases m with
  | nil => rfl
  | cons c m => obtain ⟨k, v⟩ := c; simp [Memory.risesFrom] at h; simp [Memory.wf, h]

theorem Memory.wf_erase (m : Memory) (a : Nat) (h : m.wf = true) : (m.erase a).wf = true := by
  cases m with
  | nil => rfl
  | cons c m =>
    obtain ⟨k, v⟩ := c
    rw [Memory.wf_cons] at h
    unfold Memory.erase
    split
    · exact Memory.wf_of_risesFrom (Memory.risesFrom_erase m a k h.2)
    · exact (Memory.wf_cons _ _ _).2 ⟨h.1, Memory.risesFrom_erase m a k h.2⟩

theorem Memory.wf_insert (m : Memory) (a : Nat) (v : Byte) (hv : v ≠ Memory.unlisted) (h : m.wf = true)
    (hn : ∀ c ∈ m, c.1 ≠ a) : (m.insert a v).wf = true := by
  cases m with
  | nil => simp [Memory.insert, Memory.wf, Memory.risesFrom, hv]
  | cons c m =>
    obtain ⟨k, w⟩ := c
    rw [Memory.wf_cons] at h
    unfold Memory.insert
    split
    · rename_i hak
      rw [Memory.wf_cons]
      exact ⟨hv, by simp [Memory.risesFrom, hak, h.1, h.2]⟩
    · rename_i hak
      have hk : k ≠ a := hn (k, w) (by simp)
      rw [Memory.wf_cons]
      exact ⟨h.1, Memory.risesFrom_insert m a k v hv (by omega) h.2 (fun c hc => hn c (by simp [hc]))⟩

/-- A write keeps the canonical form. -/
theorem Memory.wf_write (m : Memory) (a : Nat) (v : Byte) (h : m.wf = true) : (m.write a v).wf = true := by
  unfold Memory.write
  split
  · exact Memory.wf_erase m a h
  · rename_i hv
    exact Memory.wf_insert _ a v hv (Memory.wf_erase m a h) (fun c hc => ((Memory.mem_erase m a c).1 hc).2)

theorem Memory.risesFrom_mem {m : Memory} : ∀ {a : Nat}, Memory.risesFrom a m = true → ∀ c ∈ m, a < c.1 := by
  induction m with
  | nil => intro a _ c hc; simp at hc
  | cons d m ih =>
    obtain ⟨k, v⟩ := d
    intro a h c hc
    simp only [Memory.risesFrom, Bool.and_eq_true, decide_eq_true_eq] at h
    rcases List.mem_cons.1 hc with rfl | hc
    · exact h.1.1
    · have := ih h.2 c hc; omega

/-- An address no pair lists reads as the unlisted byte. -/
theorem Memory.read_of_forall_ne {m : Memory} {a : Nat} (h : ∀ c ∈ m, c.1 ≠ a) : m.read a = 0#8 := by
  induction m with
  | nil => rfl
  | cons c m ih =>
    obtain ⟨k, v⟩ := c
    have hk : k ≠ a := h (k, v) (by simp)
    simp only [Memory.read, hk, if_false]
    exact ih (fun c hc => h c (by simp [hc]))

/-- A memory of `n` cells reads as the unlisted byte outside them. -/
theorem Memory.read_outside {m : Memory} {n a : Nat} (h : m.below n = true) (ha : n ≤ a) : m.read a = 0#8 := by
  refine Memory.read_of_forall_ne (fun c hc => ?_)
  have := (List.all_eq_true.1 h) c hc
  simp at this; omega

/-- A bound on every listed byte is a bound on every byte read, if 0 meets it. -/
theorem Memory.read_of_all {p : Byte → Bool} {m : Memory} (h : m.all (fun c => p c.2) = true) (h0 : p 0#8 = true)
    (a : Nat) : p (m.read a) = true := by
  induction m with
  | nil => exact h0
  | cons c m ih =>
    obtain ⟨k, v⟩ := c
    simp only [List.all_cons, Bool.and_eq_true] at h
    simp only [Memory.read]
    split
    · exact h.1
    · exact ih h.2

/-- Two memories in canonical form that read alike are equal: equal memories are equal data. -/
theorem Memory.ext_of_wf : ∀ {m n : Memory}, m.wf = true → n.wf = true → (∀ a, m.read a = n.read a) → m = n := by
  intro m
  induction m with
  | nil =>
    intro n _ hn h
    cases n with
    | nil => rfl
    | cons c n =>
      obtain ⟨k, v⟩ := c
      rw [Memory.wf_cons] at hn
      exact absurd (by simpa [Memory.read] using (h k).symm) hn.1
  | cons c m ih =>
    obtain ⟨k, v⟩ := c
    intro n hm hn h
    rw [Memory.wf_cons] at hm
    cases n with
    | nil => exact absurd (by simpa [Memory.read] using h k) hm.1
    | cons d n =>
      obtain ⟨l, w⟩ := d
      rw [Memory.wf_cons] at hn
      have below : ∀ {r : Memory} {b c : Nat}, Memory.risesFrom b r = true → c ≤ b → r.read c = 0#8 :=
        fun hr hc => Memory.read_of_forall_ne (fun x hx => by have := Memory.risesFrom_mem hr x hx; omega)
      have hkl : k = l := by
        rcases Nat.lt_trichotomy k l with hlt | rfl | hgt
        · have := h k
          simp only [Memory.read, if_true, show l ≠ k by omega, if_false, below hn.2 (show k ≤ l by omega)] at this
          exact absurd this hm.1
        · rfl
        · have := h l
          simp only [Memory.read, if_true, show k ≠ l by omega, if_false, below hm.2 (show l ≤ k by omega)] at this
          exact absurd this.symm hn.1
      subst hkl
      have hv : v = w := by simpa [Memory.read] using h k
      subst hv
      have tails : ∀ a, Memory.read m a = Memory.read n a := by
        intro a
        by_cases ha : k = a
        · subst ha; rw [below hm.2 (Nat.le_refl _), below hn.2 (Nat.le_refl _)]
        · simpa [Memory.read, ha] using h a
      rw [ih (Memory.wf_of_risesFrom hm.2) (Memory.wf_of_risesFrom hn.2) tails]

theorem Memory.foldl_write_read {α : Type} (xs : List α) (key : α → Nat) (value : α → Byte) (m : Memory) (b : Nat)
    (h : ∀ x ∈ xs, key x ≠ b) : (xs.foldl (fun m x => m.write (key x) (value x)) m).read b = m.read b := by
  induction xs generalizing m with
  | nil => rfl
  | cons x xs ih =>
    rw [List.foldl_cons, ih _ (fun y hy => h y (by simp [hy])), Memory.read_write_other _ _ (h x (by simp)).symm]

/-- Filling cells `0 .. n - 1` with a function of the index. -/
theorem Memory.read_fill (n : Nat) (value : Nat → Byte) (m : Memory) (a : Nat) :
    (m.fill n value).read a = if a < n then value a else m.read a := by
  unfold Memory.fill
  induction n with
  | zero => simp
  | succ n ih =>
    rw [List.range_succ, List.foldl_append, List.foldl_cons, List.foldl_nil, Memory.read_write, ih]
    grind

theorem Memory.foldl_keeps {α : Type} (P : Memory → Prop) (f : Memory → α → Memory) (xs : List α) (m : Memory)
    (hm : P m) (h : ∀ m x, x ∈ xs → P m → P (f m x)) : P (xs.foldl f m) := by
  induction xs generalizing m with
  | nil => exact hm
  | cons x xs ih =>
    exact ih _ (h m x (by simp) hm) (fun m y hy => h m y (by simp [hy]))

theorem Memory.wf_fill (n : Nat) (value : Nat → Byte) (m : Memory) (h : m.wf = true) : (m.fill n value).wf = true :=
  Memory.foldl_keeps (fun m => m.wf = true) _ _ m h (fun m _ _ hm => Memory.wf_write m _ _ hm)

theorem Memory.below_fill {k : Nat} (n : Nat) (value : Nat → Byte) (m : Memory) (h : m.below k = true)
    (hn : n ≤ k) : (m.fill n value).below k = true :=
  Memory.foldl_keeps (fun m => m.below k = true) _ _ m h
    (fun m x hx hm => Memory.below_write m _ _ hm (by have := List.mem_range.1 hx; omega))

theorem Memory.read_ofBytes (bs : List Byte) : ∀ (a b : Nat),
    (Memory.ofBytes a bs).read b = if a ≤ b then bs.getD (b - a) 0#8 else 0#8 := by
  induction bs with
  | nil => intro a b; simp [Memory.ofBytes]
  | cons v bs ih =>
    intro a b
    unfold Memory.ofBytes
    rcases Nat.lt_trichotomy a b with hlt | rfl | hgt
    · have hb : b - a = (b - (a + 1)) + 1 := by omega
      split
      · rw [ih, if_pos (by omega), if_pos (by omega), hb]; rfl
      · simp only [Memory.read, show a ≠ b by omega, if_false]
        rw [ih, if_pos (by omega), if_pos (by omega), hb]; rfl
    · split
      · rename_i hv; rw [ih, if_neg (by omega), if_pos (by omega), hv]; simp [Memory.unlisted]
      · simp [Memory.read]
    · split
      · rw [ih, if_neg (by omega), if_neg (by omega)]
      · simp only [Memory.read, show a ≠ b by omega, if_false]
        rw [ih, if_neg (by omega), if_neg (by omega)]

theorem Memory.risesFrom_ofBytes (bs : List Byte) : ∀ (a b : Nat), b < a →
    Memory.risesFrom b (Memory.ofBytes a bs) = true := by
  induction bs with
  | nil => intro a b _; rfl
  | cons v bs ih =>
    intro a b h
    unfold Memory.ofBytes
    split
    · exact ih (a + 1) b (by omega)
    · rename_i hv
      simp [Memory.risesFrom, h, hv, ih (a + 1) a (by omega)]

theorem Memory.wf_ofBytes (a : Nat) (bs : List Byte) : (Memory.ofBytes a bs).wf = true := by
  induction bs generalizing a with
  | nil => rfl
  | cons v bs ih =>
    unfold Memory.ofBytes
    split
    · exact ih (a + 1)
    · rename_i hv
      exact (Memory.wf_cons _ _ _).2 ⟨hv, Memory.risesFrom_ofBytes bs (a + 1) a (by omega)⟩

theorem Memory.below_ofBytes (bs : List Byte) : ∀ (a n : Nat), a + bs.length ≤ n →
    (Memory.ofBytes a bs).below n = true := by
  induction bs with
  | nil => intro a n _; rfl
  | cons v bs ih =>
    intro a n h
    have hl : a + 1 + bs.length ≤ n := by simp at h; omega
    unfold Memory.ofBytes
    split
    · exact ih (a + 1) n hl
    · have := ih (a + 1) n hl
      simp only [Memory.below, List.all_cons, Bool.and_eq_true] at *
      exact ⟨by simp at h ⊢; omega, this⟩

end Sys2Proof.Machine
end

