-- ==== Sys2Proof/Laws/State.lean ====
section
/-! SUPPORT. One lemma per field per named update of State, so that no later proof unfolds a record update; and the whole
effect of each input operation. -/
namespace Sys2Proof.Machine

@[simp] theorem State.emit_ctrl (s : State) (o : Output) : (s.emit o).ctrl = s.ctrl := rfl
@[simp] theorem State.emit_mask (s : State) (o : Output) : (s.emit o).mask = s.mask := rfl
@[simp] theorem State.emit_status (s : State) (o : Output) : (s.emit o).status = s.status := rfl
@[simp] theorem State.emit_wLatch (s : State) (o : Output) : (s.emit o).wLatch = s.wLatch := rfl
@[simp] theorem State.emit_oamAddr (s : State) (o : Output) : (s.emit o).oamAddr = s.oamAddr := rfl
@[simp] theorem State.emit_vramAddr (s : State) (o : Output) : (s.emit o).vramAddr = s.vramAddr := rfl
@[simp] theorem State.emit_scrollX (s : State) (o : Output) : (s.emit o).scrollX = s.scrollX := rfl
@[simp] theorem State.emit_scrollY (s : State) (o : Output) : (s.emit o).scrollY = s.scrollY := rfl
@[simp] theorem State.emit_readBuf (s : State) (o : Output) : (s.emit o).readBuf = s.readBuf := rfl
@[simp] theorem State.emit_joyShift (s : State) (o : Output) : (s.emit o).joyShift = s.joyShift := rfl
@[simp] theorem State.emit_chrBank (s : State) (o : Output) : (s.emit o).chrBank = s.chrBank := rfl
@[simp] theorem State.emit_scanline (s : State) (o : Output) : (s.emit o).scanline = s.scanline := rfl
@[simp] theorem State.emit_halted (s : State) (o : Output) : (s.emit o).halted = s.halted := rfl
@[simp] theorem State.emit_nt (s : State) (o : Output) : (s.emit o).nt = s.nt := rfl
@[simp] theorem State.emit_oam (s : State) (o : Output) : (s.emit o).oam = s.oam := rfl
@[simp] theorem State.emit_pal (s : State) (o : Output) : (s.emit o).pal = s.pal := rfl
@[simp] theorem State.emit_fb (s : State) (o : Output) : (s.emit o).fb = s.fb := rfl
@[simp] theorem State.emit_ram (s : State) (o : Output) : (s.emit o).ram = s.ram := rfl
@[simp] theorem State.emit_cart (s : State) (o : Output) : (s.emit o).cart = s.cart := rfl
@[simp] theorem State.emit_params (s : State) (o : Output) : (s.emit o).params = s.params := rfl
@[simp] theorem State.emit_pending (s : State) (o : Output) : (s.emit o).pending = s.pending := rfl
@[simp] theorem State.emit_budgets (s : State) (o : Output) : (s.emit o).budgets = s.budgets := rfl
@[simp] theorem State.emit_buttons (s : State) (o : Output) : (s.emit o).buttons = s.buttons := rfl
@[simp] theorem State.emit_answers (s : State) (o : Output) : (s.emit o).answers = s.answers := rfl
@[simp] theorem State.emit_drawn (s : State) (o : Output) : (s.emit o).drawn = s.drawn := rfl
@[simp] theorem State.emit_trace (s : State) (o : Output) : (s.emit o).trace = o :: s.trace := rfl

@[simp] theorem State.answer_ctrl (s : State) (v : Byte) : (s.answer v).ctrl = s.ctrl := rfl
@[simp] theorem State.answer_mask (s : State) (v : Byte) : (s.answer v).mask = s.mask := rfl
@[simp] theorem State.answer_status (s : State) (v : Byte) : (s.answer v).status = s.status := rfl
@[simp] theorem State.answer_wLatch (s : State) (v : Byte) : (s.answer v).wLatch = s.wLatch := rfl
@[simp] theorem State.answer_oamAddr (s : State) (v : Byte) : (s.answer v).oamAddr = s.oamAddr := rfl
@[simp] theorem State.answer_vramAddr (s : State) (v : Byte) : (s.answer v).vramAddr = s.vramAddr := rfl
@[simp] theorem State.answer_scrollX (s : State) (v : Byte) : (s.answer v).scrollX = s.scrollX := rfl
@[simp] theorem State.answer_scrollY (s : State) (v : Byte) : (s.answer v).scrollY = s.scrollY := rfl
@[simp] theorem State.answer_readBuf (s : State) (v : Byte) : (s.answer v).readBuf = s.readBuf := rfl
@[simp] theorem State.answer_joyShift (s : State) (v : Byte) : (s.answer v).joyShift = s.joyShift := rfl
@[simp] theorem State.answer_chrBank (s : State) (v : Byte) : (s.answer v).chrBank = s.chrBank := rfl
@[simp] theorem State.answer_scanline (s : State) (v : Byte) : (s.answer v).scanline = s.scanline := rfl
@[simp] theorem State.answer_halted (s : State) (v : Byte) : (s.answer v).halted = s.halted := rfl
@[simp] theorem State.answer_nt (s : State) (v : Byte) : (s.answer v).nt = s.nt := rfl
@[simp] theorem State.answer_oam (s : State) (v : Byte) : (s.answer v).oam = s.oam := rfl
@[simp] theorem State.answer_pal (s : State) (v : Byte) : (s.answer v).pal = s.pal := rfl
@[simp] theorem State.answer_fb (s : State) (v : Byte) : (s.answer v).fb = s.fb := rfl
@[simp] theorem State.answer_ram (s : State) (v : Byte) : (s.answer v).ram = s.ram := rfl
@[simp] theorem State.answer_cart (s : State) (v : Byte) : (s.answer v).cart = s.cart := rfl
@[simp] theorem State.answer_params (s : State) (v : Byte) : (s.answer v).params = s.params := rfl
@[simp] theorem State.answer_pending (s : State) (v : Byte) : (s.answer v).pending = s.pending := rfl
@[simp] theorem State.answer_budgets (s : State) (v : Byte) : (s.answer v).budgets = s.budgets := rfl
@[simp] theorem State.answer_buttons (s : State) (v : Byte) : (s.answer v).buttons = s.buttons := rfl
@[simp] theorem State.answer_answers (s : State) (v : Byte) : (s.answer v).answers = s.answers := rfl
@[simp] theorem State.answer_drawn (s : State) (v : Byte) : (s.answer v).drawn = s.drawn := rfl
@[simp] theorem State.answer_trace (s : State) (v : Byte) : (s.answer v).trace = .returned v :: s.trace := rfl

@[simp] theorem State.requestNmi_ctrl (s : State) : (s.requestNmi).ctrl = s.ctrl := rfl
@[simp] theorem State.requestNmi_mask (s : State) : (s.requestNmi).mask = s.mask := rfl
@[simp] theorem State.requestNmi_status (s : State) : (s.requestNmi).status = s.status := rfl
@[simp] theorem State.requestNmi_wLatch (s : State) : (s.requestNmi).wLatch = s.wLatch := rfl
@[simp] theorem State.requestNmi_oamAddr (s : State) : (s.requestNmi).oamAddr = s.oamAddr := rfl
@[simp] theorem State.requestNmi_vramAddr (s : State) : (s.requestNmi).vramAddr = s.vramAddr := rfl
@[simp] theorem State.requestNmi_scrollX (s : State) : (s.requestNmi).scrollX = s.scrollX := rfl
@[simp] theorem State.requestNmi_scrollY (s : State) : (s.requestNmi).scrollY = s.scrollY := rfl
@[simp] theorem State.requestNmi_readBuf (s : State) : (s.requestNmi).readBuf = s.readBuf := rfl
@[simp] theorem State.requestNmi_joyShift (s : State) : (s.requestNmi).joyShift = s.joyShift := rfl
@[simp] theorem State.requestNmi_chrBank (s : State) : (s.requestNmi).chrBank = s.chrBank := rfl
@[simp] theorem State.requestNmi_scanline (s : State) : (s.requestNmi).scanline = s.scanline := rfl
@[simp] theorem State.requestNmi_halted (s : State) : (s.requestNmi).halted = s.halted := rfl
@[simp] theorem State.requestNmi_nt (s : State) : (s.requestNmi).nt = s.nt := rfl
@[simp] theorem State.requestNmi_oam (s : State) : (s.requestNmi).oam = s.oam := rfl
@[simp] theorem State.requestNmi_pal (s : State) : (s.requestNmi).pal = s.pal := rfl
@[simp] theorem State.requestNmi_fb (s : State) : (s.requestNmi).fb = s.fb := rfl
@[simp] theorem State.requestNmi_ram (s : State) : (s.requestNmi).ram = s.ram := rfl
@[simp] theorem State.requestNmi_cart (s : State) : (s.requestNmi).cart = s.cart := rfl
@[simp] theorem State.requestNmi_params (s : State) : (s.requestNmi).params = s.params := rfl
@[simp] theorem State.requestNmi_pending (s : State) : (s.requestNmi).pending = s.pending := rfl
@[simp] theorem State.requestNmi_budgets (s : State) : (s.requestNmi).budgets = s.budgets := rfl
@[simp] theorem State.requestNmi_buttons (s : State) : (s.requestNmi).buttons = s.buttons := rfl
@[simp] theorem State.requestNmi_answers (s : State) : (s.requestNmi).answers = s.answers := rfl
@[simp] theorem State.requestNmi_drawn (s : State) : (s.requestNmi).drawn = s.drawn := rfl
@[simp] theorem State.requestNmi_trace (s : State) : (s.requestNmi).trace = .raiseNmi :: s.trace := rfl

@[simp] theorem State.setVblank_ctrl (s : State) : (s.setVblank).ctrl = s.ctrl := rfl
@[simp] theorem State.setVblank_mask (s : State) : (s.setVblank).mask = s.mask := rfl
@[simp] theorem State.setVblank_status (s : State) : (s.setVblank).status = s.status ||| 0x80#8 := rfl
@[simp] theorem State.setVblank_wLatch (s : State) : (s.setVblank).wLatch = s.wLatch := rfl
@[simp] theorem State.setVblank_oamAddr (s : State) : (s.setVblank).oamAddr = s.oamAddr := rfl
@[simp] theorem State.setVblank_vramAddr (s : State) : (s.setVblank).vramAddr = s.vramAddr := rfl
@[simp] theorem State.setVblank_scrollX (s : State) : (s.setVblank).scrollX = s.scrollX := rfl
@[simp] theorem State.setVblank_scrollY (s : State) : (s.setVblank).scrollY = s.scrollY := rfl
@[simp] theorem State.setVblank_readBuf (s : State) : (s.setVblank).readBuf = s.readBuf := rfl
@[simp] theorem State.setVblank_joyShift (s : State) : (s.setVblank).joyShift = s.joyShift := rfl
@[simp] theorem State.setVblank_chrBank (s : State) : (s.setVblank).chrBank = s.chrBank := rfl
@[simp] theorem State.setVblank_scanline (s : State) : (s.setVblank).scanline = s.scanline := rfl
@[simp] theorem State.setVblank_halted (s : State) : (s.setVblank).halted = s.halted := rfl
@[simp] theorem State.setVblank_nt (s : State) : (s.setVblank).nt = s.nt := rfl
@[simp] theorem State.setVblank_oam (s : State) : (s.setVblank).oam = s.oam := rfl
@[simp] theorem State.setVblank_pal (s : State) : (s.setVblank).pal = s.pal := rfl
@[simp] theorem State.setVblank_fb (s : State) : (s.setVblank).fb = s.fb := rfl
@[simp] theorem State.setVblank_ram (s : State) : (s.setVblank).ram = s.ram := rfl
@[simp] theorem State.setVblank_cart (s : State) : (s.setVblank).cart = s.cart := rfl
@[simp] theorem State.setVblank_params (s : State) : (s.setVblank).params = s.params := rfl
@[simp] theorem State.setVblank_pending (s : State) : (s.setVblank).pending = s.pending := rfl
@[simp] theorem State.setVblank_budgets (s : State) : (s.setVblank).budgets = s.budgets := rfl
@[simp] theorem State.setVblank_buttons (s : State) : (s.setVblank).buttons = s.buttons := rfl
@[simp] theorem State.setVblank_answers (s : State) : (s.setVblank).answers = s.answers := rfl
@[simp] theorem State.setVblank_drawn (s : State) : (s.setVblank).drawn = s.drawn := rfl
@[simp] theorem State.setVblank_trace (s : State) : (s.setVblank).trace = s.trace := rfl

@[simp] theorem State.clearVblank_ctrl (s : State) : (s.clearVblank).ctrl = s.ctrl := rfl
@[simp] theorem State.clearVblank_mask (s : State) : (s.clearVblank).mask = s.mask := rfl
@[simp] theorem State.clearVblank_status (s : State) : (s.clearVblank).status = s.status &&& 0x7F#8 := rfl
@[simp] theorem State.clearVblank_wLatch (s : State) : (s.clearVblank).wLatch = s.wLatch := rfl
@[simp] theorem State.clearVblank_oamAddr (s : State) : (s.clearVblank).oamAddr = s.oamAddr := rfl
@[simp] theorem State.clearVblank_vramAddr (s : State) : (s.clearVblank).vramAddr = s.vramAddr := rfl
@[simp] theorem State.clearVblank_scrollX (s : State) : (s.clearVblank).scrollX = s.scrollX := rfl
@[simp] theorem State.clearVblank_scrollY (s : State) : (s.clearVblank).scrollY = s.scrollY := rfl
@[simp] theorem State.clearVblank_readBuf (s : State) : (s.clearVblank).readBuf = s.readBuf := rfl
@[simp] theorem State.clearVblank_joyShift (s : State) : (s.clearVblank).joyShift = s.joyShift := rfl
@[simp] theorem State.clearVblank_chrBank (s : State) : (s.clearVblank).chrBank = s.chrBank := rfl
@[simp] theorem State.clearVblank_scanline (s : State) : (s.clearVblank).scanline = s.scanline := rfl
@[simp] theorem State.clearVblank_halted (s : State) : (s.clearVblank).halted = s.halted := rfl
@[simp] theorem State.clearVblank_nt (s : State) : (s.clearVblank).nt = s.nt := rfl
@[simp] theorem State.clearVblank_oam (s : State) : (s.clearVblank).oam = s.oam := rfl
@[simp] theorem State.clearVblank_pal (s : State) : (s.clearVblank).pal = s.pal := rfl
@[simp] theorem State.clearVblank_fb (s : State) : (s.clearVblank).fb = s.fb := rfl
@[simp] theorem State.clearVblank_ram (s : State) : (s.clearVblank).ram = s.ram := rfl
@[simp] theorem State.clearVblank_cart (s : State) : (s.clearVblank).cart = s.cart := rfl
@[simp] theorem State.clearVblank_params (s : State) : (s.clearVblank).params = s.params := rfl
@[simp] theorem State.clearVblank_pending (s : State) : (s.clearVblank).pending = s.pending := rfl
@[simp] theorem State.clearVblank_budgets (s : State) : (s.clearVblank).budgets = s.budgets := rfl
@[simp] theorem State.clearVblank_buttons (s : State) : (s.clearVblank).buttons = s.buttons := rfl
@[simp] theorem State.clearVblank_answers (s : State) : (s.clearVblank).answers = s.answers := rfl
@[simp] theorem State.clearVblank_drawn (s : State) : (s.clearVblank).drawn = s.drawn := rfl
@[simp] theorem State.clearVblank_trace (s : State) : (s.clearVblank).trace = s.trace := rfl

@[simp] theorem State.advanceVram_ctrl (s : State) : (s.advanceVram).ctrl = s.ctrl := rfl
@[simp] theorem State.advanceVram_mask (s : State) : (s.advanceVram).mask = s.mask := rfl
@[simp] theorem State.advanceVram_status (s : State) : (s.advanceVram).status = s.status := rfl
@[simp] theorem State.advanceVram_wLatch (s : State) : (s.advanceVram).wLatch = s.wLatch := rfl
@[simp] theorem State.advanceVram_oamAddr (s : State) : (s.advanceVram).oamAddr = s.oamAddr := rfl
@[simp] theorem State.advanceVram_vramAddr (s : State) : (s.advanceVram).vramAddr = s.vramAddr + BitVec.ofNat 14 s.vramInc := rfl
@[simp] theorem State.advanceVram_scrollX (s : State) : (s.advanceVram).scrollX = s.scrollX := rfl
@[simp] theorem State.advanceVram_scrollY (s : State) : (s.advanceVram).scrollY = s.scrollY := rfl
@[simp] theorem State.advanceVram_readBuf (s : State) : (s.advanceVram).readBuf = s.readBuf := rfl
@[simp] theorem State.advanceVram_joyShift (s : State) : (s.advanceVram).joyShift = s.joyShift := rfl
@[simp] theorem State.advanceVram_chrBank (s : State) : (s.advanceVram).chrBank = s.chrBank := rfl
@[simp] theorem State.advanceVram_scanline (s : State) : (s.advanceVram).scanline = s.scanline := rfl
@[simp] theorem State.advanceVram_halted (s : State) : (s.advanceVram).halted = s.halted := rfl
@[simp] theorem State.advanceVram_nt (s : State) : (s.advanceVram).nt = s.nt := rfl
@[simp] theorem State.advanceVram_oam (s : State) : (s.advanceVram).oam = s.oam := rfl
@[simp] theorem State.advanceVram_pal (s : State) : (s.advanceVram).pal = s.pal := rfl
@[simp] theorem State.advanceVram_fb (s : State) : (s.advanceVram).fb = s.fb := rfl
@[simp] theorem State.advanceVram_ram (s : State) : (s.advanceVram).ram = s.ram := rfl
@[simp] theorem State.advanceVram_cart (s : State) : (s.advanceVram).cart = s.cart := rfl
@[simp] theorem State.advanceVram_params (s : State) : (s.advanceVram).params = s.params := rfl
@[simp] theorem State.advanceVram_pending (s : State) : (s.advanceVram).pending = s.pending := rfl
@[simp] theorem State.advanceVram_budgets (s : State) : (s.advanceVram).budgets = s.budgets := rfl
@[simp] theorem State.advanceVram_buttons (s : State) : (s.advanceVram).buttons = s.buttons := rfl
@[simp] theorem State.advanceVram_answers (s : State) : (s.advanceVram).answers = s.answers := rfl
@[simp] theorem State.advanceVram_drawn (s : State) : (s.advanceVram).drawn = s.drawn := rfl
@[simp] theorem State.advanceVram_trace (s : State) : (s.advanceVram).trace = s.trace := rfl

@[simp] theorem renderScanline_ctrl (n : Nat) (s : State) : (renderScanline n s).ctrl = s.ctrl := rfl
@[simp] theorem renderScanline_mask (n : Nat) (s : State) : (renderScanline n s).mask = s.mask := rfl
@[simp] theorem renderScanline_status (n : Nat) (s : State) : (renderScanline n s).status = s.status := rfl
@[simp] theorem renderScanline_wLatch (n : Nat) (s : State) : (renderScanline n s).wLatch = s.wLatch := rfl
@[simp] theorem renderScanline_oamAddr (n : Nat) (s : State) : (renderScanline n s).oamAddr = s.oamAddr := rfl
@[simp] theorem renderScanline_vramAddr (n : Nat) (s : State) : (renderScanline n s).vramAddr = s.vramAddr := rfl
@[simp] theorem renderScanline_scrollX (n : Nat) (s : State) : (renderScanline n s).scrollX = s.scrollX := rfl
@[simp] theorem renderScanline_scrollY (n : Nat) (s : State) : (renderScanline n s).scrollY = s.scrollY := rfl
@[simp] theorem renderScanline_readBuf (n : Nat) (s : State) : (renderScanline n s).readBuf = s.readBuf := rfl
@[simp] theorem renderScanline_joyShift (n : Nat) (s : State) : (renderScanline n s).joyShift = s.joyShift := rfl
@[simp] theorem renderScanline_chrBank (n : Nat) (s : State) : (renderScanline n s).chrBank = s.chrBank := rfl
@[simp] theorem renderScanline_scanline (n : Nat) (s : State) : (renderScanline n s).scanline = s.scanline := rfl
@[simp] theorem renderScanline_halted (n : Nat) (s : State) : (renderScanline n s).halted = s.halted := rfl
@[simp] theorem renderScanline_nt (n : Nat) (s : State) : (renderScanline n s).nt = s.nt := rfl
@[simp] theorem renderScanline_oam (n : Nat) (s : State) : (renderScanline n s).oam = s.oam := rfl
@[simp] theorem renderScanline_pal (n : Nat) (s : State) : (renderScanline n s).pal = s.pal := rfl
@[simp] theorem renderScanline_fb (n : Nat) (s : State) : (renderScanline n s).fb = s.rendered n := rfl
@[simp] theorem renderScanline_ram (n : Nat) (s : State) : (renderScanline n s).ram = s.ram := rfl
@[simp] theorem renderScanline_cart (n : Nat) (s : State) : (renderScanline n s).cart = s.cart := rfl
@[simp] theorem renderScanline_params (n : Nat) (s : State) : (renderScanline n s).params = s.params := rfl
@[simp] theorem renderScanline_pending (n : Nat) (s : State) : (renderScanline n s).pending = s.pending := rfl
@[simp] theorem renderScanline_budgets (n : Nat) (s : State) : (renderScanline n s).budgets = s.budgets := rfl
@[simp] theorem renderScanline_buttons (n : Nat) (s : State) : (renderScanline n s).buttons = s.buttons := rfl
@[simp] theorem renderScanline_answers (n : Nat) (s : State) : (renderScanline n s).answers = s.answers := rfl
@[simp] theorem renderScanline_drawn (n : Nat) (s : State) : (renderScanline n s).drawn = s.drawn := rfl
@[simp] theorem renderScanline_trace (n : Nat) (s : State) : (renderScanline n s).trace = s.trace := rfl

/-- Polling the buttons uses up one answer, or one free value where none is left; nothing else changes. -/
theorem State.pollButtons_snd (s : State) :
    s.pollButtons.2 =
      { s with buttons := s.buttons.tail, drawn := s.drawn + (if s.buttons = [] then 1 else 0),
               trace := .pollButtonStates :: s.trace } := by
  unfold State.pollButtons; split <;> simp_all

/-- The polled states are the next the input data gives. -/
theorem State.pollButtons_fst (s : State) (b : Buttons) (h : s.buttons.head? = some b) : s.pollButtons.1 = b := by
  unfold State.pollButtons; split <;> simp_all

/-- Presenting a frame uses up one answer, or one free value where none is left; nothing else changes. -/
theorem State.presentFrame_snd (s : State) :
    s.presentFrame.2 =
      { s with answers := s.answers.tail, drawn := s.drawn + (if s.answers = [] then 1 else 0),
               trace := .presentFrame s.fb Config.masterRgb :: s.trace } := by
  unfold State.presentFrame; split <;> simp_all

/-- The host's answer is the next the input data gives. -/
theorem State.presentFrame_fst (s : State) (a : HostAnswer) (h : s.answers.head? = some a) :
    s.presentFrame.1 = a := by
  unfold State.presentFrame; split <;> simp_all

/-- Taking a budget uses up one list of transactions, or one free value where none is left; nothing else changes. -/
theorem State.takeBudget_snd (s : State) :
    s.takeBudget.2 =
      { s with budgets := s.budgets.tail, drawn := s.drawn + (if s.budgets = [] then 1 else 0) } := by
  unfold State.takeBudget; split <;> simp_all

/-- The budget's transactions are the next the input data gives. -/
theorem State.takeBudget_fst (s : State) (b : List BusTxn) (h : s.budgets.head? = some b) : s.takeBudget.1 = b := by
  unfold State.takeBudget; split <;> simp_all

end Sys2Proof.Machine
end

