-- ==== Sys2Proof/Laws/Bus.lean ====
section
/-! SUPPORT. What a bus operation, a budget and a call of the CPU engine can do: the state no transaction reaches
(60_exceptions.md R204), and the whole effect of the shared video-memory operations. -/
namespace Sys2Proof.Machine

theorem ntMap_lt (m : Mirroring) (a : Nat) : ntMap m a < 2048 := by
  unfold ntMap; cases m <;> simp only <;> omega

/-- `VramWrite` can change one nametable cell or one palette cell, and nothing else. -/
theorem State.vramWrite_eq (s : State) (a : Nat) (v : Byte) :
    s.vramWrite a v =
      { s with
        nt := if 0x2000 ≤ a % 0x4000 ∧ a % 0x4000 < 0x3F00 then s.nt.write (ntMap s.cart.mirroring (a % 0x4000)) v
              else s.nt
        pal := if 0x3F00 ≤ a % 0x4000 then s.pal.write (a % 0x4000 % 0x40) v else s.pal } := by
  unfold State.vramWrite
  dsimp only
  split
  · rw [if_neg (by omega), if_neg (by omega)]
  · split
    · rw [if_pos (by omega), if_neg (by omega)]
    · rw [if_neg (by omega), if_pos (by omega)]

/-- `VramRead` after `VramWrite` at the same address: the byte, unless the address is in the pattern tables. -/
theorem State.vramRead_vramWrite_same (s : State) (a : Nat) (v : Byte) :
    (s.vramWrite a v).vramRead a = if a % 0x4000 < 0x2000 then s.vramRead a else v := by
  rw [State.vramWrite_eq]
  unfold State.vramRead State.chrBase
  dsimp only
  split
  · rfl
  · split
    · rw [if_pos (by omega), Memory.read_write_same]
    · rw [if_pos (by omega), Memory.read_write_same]

section frames
variable (i : Instr) (s : State)

@[simp] theorem busEffect_fb : (busEffect i s).fb = s.fb := by
  cases i <;> simp only [busEffect, ramR, ramW, ctrlR, ctrlW, maskR, maskW, statusR, statusW, oamaddrR, oamaddrW, oamdataR, oamdataW,
    scrollR, scrollW, addrR, addrW, dataR, dataW, oamdmaW, joy1R, joy1W, openR, openW, prgR, prgW,
    State.writeOnlyRead, onPrgWrite, bankSelect, State.vramWrite_eq, State.pollButtons_snd] <;>
    (repeat' split) <;> simp

@[simp] theorem busEffect_scanline : (busEffect i s).scanline = s.scanline := by
  cases i <;> simp only [busEffect, ramR, ramW, ctrlR, ctrlW, maskR, maskW, statusR, statusW, oamaddrR, oamaddrW, oamdataR, oamdataW,
    scrollR, scrollW, addrR, addrW, dataR, dataW, oamdmaW, joy1R, joy1W, openR, openW, prgR, prgW,
    State.writeOnlyRead, onPrgWrite, bankSelect, State.vramWrite_eq, State.pollButtons_snd] <;>
    (repeat' split) <;> simp

@[simp] theorem busEffect_halted : (busEffect i s).halted = s.halted := by
  cases i <;> simp only [busEffect, ramR, ramW, ctrlR, ctrlW, maskR, maskW, statusR, statusW, oamaddrR, oamaddrW, oamdataR, oamdataW,
    scrollR, scrollW, addrR, addrW, dataR, dataW, oamdmaW, joy1R, joy1W, openR, openW, prgR, prgW,
    State.writeOnlyRead, onPrgWrite, bankSelect, State.vramWrite_eq, State.pollButtons_snd] <;>
    (repeat' split) <;> simp

@[simp] theorem busEffect_cart : (busEffect i s).cart = s.cart := by
  cases i <;> simp only [busEffect, ramR, ramW, ctrlR, ctrlW, maskR, maskW, statusR, statusW, oamaddrR, oamaddrW, oamdataR, oamdataW,
    scrollR, scrollW, addrR, addrW, dataR, dataW, oamdmaW, joy1R, joy1W, openR, openW, prgR, prgW,
    State.writeOnlyRead, onPrgWrite, bankSelect, State.vramWrite_eq, State.pollButtons_snd] <;>
    (repeat' split) <;> simp

@[simp] theorem busEffect_params : (busEffect i s).params = s.params := by
  cases i <;> simp only [busEffect, ramR, ramW, ctrlR, ctrlW, maskR, maskW, statusR, statusW, oamaddrR, oamaddrW, oamdataR, oamdataW,
    scrollR, scrollW, addrR, addrW, dataR, dataW, oamdmaW, joy1R, joy1W, openR, openW, prgR, prgW,
    State.writeOnlyRead, onPrgWrite, bankSelect, State.vramWrite_eq, State.pollButtons_snd] <;>
    (repeat' split) <;> simp

@[simp] theorem busEffect_pending : (busEffect i s).pending = s.pending := by
  cases i <;> simp only [busEffect, ramR, ramW, ctrlR, ctrlW, maskR, maskW, statusR, statusW, oamaddrR, oamaddrW, oamdataR, oamdataW,
    scrollR, scrollW, addrR, addrW, dataR, dataW, oamdmaW, joy1R, joy1W, openR, openW, prgR, prgW,
    State.writeOnlyRead, onPrgWrite, bankSelect, State.vramWrite_eq, State.pollButtons_snd] <;>
    (repeat' split) <;> simp

@[simp] theorem busEffect_budgets : (busEffect i s).budgets = s.budgets := by
  cases i <;> simp only [busEffect, ramR, ramW, ctrlR, ctrlW, maskR, maskW, statusR, statusW, oamaddrR, oamaddrW, oamdataR, oamdataW,
    scrollR, scrollW, addrR, addrW, dataR, dataW, oamdmaW, joy1R, joy1W, openR, openW, prgR, prgW,
    State.writeOnlyRead, onPrgWrite, bankSelect, State.vramWrite_eq, State.pollButtons_snd] <;>
    (repeat' split) <;> simp

@[simp] theorem busEffect_answers : (busEffect i s).answers = s.answers := by
  cases i <;> simp only [busEffect, ramR, ramW, ctrlR, ctrlW, maskR, maskW, statusR, statusW, oamaddrR, oamaddrW, oamdataR, oamdataW,
    scrollR, scrollW, addrR, addrW, dataR, dataW, oamdmaW, joy1R, joy1W, openR, openW, prgR, prgW,
    State.writeOnlyRead, onPrgWrite, bankSelect, State.vramWrite_eq, State.pollButtons_snd] <;>
    (repeat' split) <;> simp

end frames

section budgets
variable (xs : List BusTxn) (s : State)

@[simp] theorem runBudget_fb : (runBudget xs s).fb = s.fb := by
  induction xs generalizing s with
  | nil => rfl
  | cons x xs ih => exact (ih _).trans (busEffect_fb _ s)

@[simp] theorem runBudget_scanline : (runBudget xs s).scanline = s.scanline := by
  induction xs generalizing s with
  | nil => rfl
  | cons x xs ih => exact (ih _).trans (busEffect_scanline _ s)

@[simp] theorem runBudget_halted : (runBudget xs s).halted = s.halted := by
  induction xs generalizing s with
  | nil => rfl
  | cons x xs ih => exact (ih _).trans (busEffect_halted _ s)

@[simp] theorem runBudget_cart : (runBudget xs s).cart = s.cart := by
  induction xs generalizing s with
  | nil => rfl
  | cons x xs ih => exact (ih _).trans (busEffect_cart _ s)

@[simp] theorem runBudget_params : (runBudget xs s).params = s.params := by
  induction xs generalizing s with
  | nil => rfl
  | cons x xs ih => exact (ih _).trans (busEffect_params _ s)

@[simp] theorem runBudget_pending : (runBudget xs s).pending = s.pending := by
  induction xs generalizing s with
  | nil => rfl
  | cons x xs ih => exact (ih _).trans (busEffect_pending _ s)

@[simp] theorem runBudget_budgets : (runBudget xs s).budgets = s.budgets := by
  induction xs generalizing s with
  | nil => rfl
  | cons x xs ih => exact (ih _).trans (busEffect_budgets _ s)

@[simp] theorem runBudget_answers : (runBudget xs s).answers = s.answers := by
  induction xs generalizing s with
  | nil => rfl
  | cons x xs ih => exact (ih _).trans (busEffect_answers _ s)

end budgets

@[simp] theorem executeCycles_fb (s : State) : (executeCycles s).fb = s.fb := by
  unfold executeCycles; simp [State.takeBudget_snd]

@[simp] theorem executeCycles_scanline (s : State) : (executeCycles s).scanline = s.scanline := by
  unfold executeCycles; simp [State.takeBudget_snd]

@[simp] theorem executeCycles_halted (s : State) : (executeCycles s).halted = s.halted := by
  unfold executeCycles; simp [State.takeBudget_snd]

@[simp] theorem executeCycles_cart (s : State) : (executeCycles s).cart = s.cart := by
  unfold executeCycles; simp [State.takeBudget_snd]

@[simp] theorem executeCycles_params (s : State) : (executeCycles s).params = s.params := by
  unfold executeCycles; simp [State.takeBudget_snd]

@[simp] theorem executeCycles_pending (s : State) : (executeCycles s).pending = s.pending := by
  unfold executeCycles; simp [State.takeBudget_snd]

@[simp] theorem executeCycles_budgets (s : State) : (executeCycles s).budgets = s.budgets.tail := by
  unfold executeCycles; simp [State.takeBudget_snd]

@[simp] theorem executeCycles_answers (s : State) : (executeCycles s).answers = s.answers := by
  unfold executeCycles; simp [State.takeBudget_snd]

theorem runBudget_cons (x : BusTxn) (xs : List BusTxn) (s : State) :
    runBudget (x :: xs) s = runBudget xs (busTransaction s x) := rfl

/-- A property that every bus operation keeps is kept by a whole budget. -/
theorem runBudget_keeps (P : State → Prop) (h : ∀ i s, P s → P (busEffect i s)) (xs : List BusTxn) (s : State)
    (hs : P s) : P (runBudget xs s) := by
  induction xs generalizing s with
  | nil => exact hs
  | cons x xs ih => exact ih _ (h _ s hs)

/-- What still waits to be presented is no input of a bus operation. -/
theorem busEffect_setPending (i : Instr) (s : State) (p : List BusTxn) :
    busEffect i { s with pending := p } = { busEffect i s with pending := p } := by
  cases i
  case joy1W v =>
    obtain ⟨⟩ := s
    rename_i bs _ _ _
    simp only [busEffect, joy1W, State.pollButtons]
    split
    · rfl
    · cases bs <;> rfl
  case ctrlW a v =>
    simp only [busEffect, ctrlW, State.nmiEnable, State.vblank]
    by_cases h : (!nmiBit s.ctrl && nmiBit v && s.status.getLsbD 7) = true <;> simp only [h, if_true] <;> rfl
  case dataR a =>
    simp only [busEffect, dataR, State.vramRead, State.chrBase]
    split <;> rfl
  case dataW a v => simp only [busEffect, dataW, State.vramWrite_eq]; rfl
  case oamdmaW v => simp only [busEffect, oamdmaW]
  case prgW a v => simp only [busEffect, prgW, onPrgWrite]; split <;> rfl
  case scrollW a v => simp only [busEffect, scrollW]; split <;> rfl
  case addrW a v => simp only [busEffect, addrW]; split <;> rfl
  all_goals rfl

/-- The meaning of a bus operation is its effect. -/
theorem exec_bus (i : Instr) (s : State) (h : i.isBus = true) : exec i s = .next (busEffect i s) := by
  cases i <;> first | rfl | exact absurd h (by decide)

end Sys2Proof.Machine
end

