-- ==== Sys2Proof/Laws/Operands.lean ====
section
/-! SUPPORT. What the assembled operands are as numbers and bits, so that no later proof opens a concatenation. -/
namespace Sys2Proof.Machine

theorem shiftLeft_or_of_lt {x y k : Nat} (h : y < 2 ^ k) : x <<< k ||| y = x * 2 ^ k + y := by
  rw [← Nat.shiftLeft_add_eq_or_of_lt h, Nat.shiftLeft_eq]

theorem bit_toNat (b : Byte) (k : Nat) : (b.extractLsb' k 1).toNat = b.toNat / 2 ^ k % 2 := by
  rw [BitVec.extractLsb'_toNat, Nat.shiftRight_eq_div_pow]

theorem withAddrHigh_toNat (old : VramAddr) (v : Byte) :
    (withAddrHigh old v).toNat = v.toNat % 64 * 256 + old.toNat % 256 := by
  refine (BitVec.toNat_append (v.extractLsb' 0 6) (old.extractLsb' 0 8)).trans ?_
  rw [shiftLeft_or_of_lt (BitVec.isLt _), BitVec.extractLsb'_toNat, BitVec.extractLsb'_toNat]
  simp

theorem withAddrLow_toNat (old : VramAddr) (v : Byte) :
    (withAddrLow old v).toNat = old.toNat / 256 * 256 + v.toNat := by
  refine (BitVec.toNat_append (old.extractLsb' 8 6) v).trans ?_
  rw [shiftLeft_or_of_lt (BitVec.isLt _), BitVec.extractLsb'_toNat, Nat.shiftRight_eq_div_pow]
  have := old.isLt
  omega

theorem nextOamAddr_toNat (o : Byte) : (nextOamAddr o).toNat = (o.toNat + 1) % 256 := by
  simp [nextOamAddr]

theorem State.advanceVram_toNat (s : State) :
    s.advanceVram.vramAddr.toNat = (s.vramAddr.toNat + s.vramInc) % 0x4000 := by
  have h : s.vramInc < 0x4000 := by unfold State.vramInc; split <;> omega
  simp [State.advanceVram, Nat.mod_eq_of_lt h]

theorem controllerByte_eq (b : Byte) : controllerByte b = if b.getLsbD 0 then 1#8 else 0#8 := by
  revert b; decide +kernel

theorem shiftedOut_getLsbD_low (fill : Bool) (b : Byte) {k : Nat} (h : k < 7) :
    (shiftedOut fill b).getLsbD k = b.getLsbD (k + 1) := by
  refine (BitVec.getLsbD_append (x := BitVec.ofBool fill) (y := b.extractLsb' 1 7)).trans ?_
  simp [h, Nat.add_comm]

theorem shiftedOut_getLsbD_top (fill : Bool) (b : Byte) : (shiftedOut fill b).getLsbD 7 = fill := by
  refine (BitVec.getLsbD_append (x := BitVec.ofBool fill) (y := b.extractLsb' 1 7)).trans ?_
  simp

theorem buttonsByte_bits (b : Buttons) :
    (List.range 8).map (fun k => (buttonsByte b).getLsbD k) =
      [b.a, b.b, b.select, b.start, b.up, b.down, b.left, b.right] := by
  rcases b with ⟨_ | _, _ | _, _ | _, _ | _, _ | _, _ | _, _ | _, _ | _⟩ <;> decide

theorem attrField_toNat (attr : Byte) (q : Nat) : (attrField attr q).toNat = attr.toNat / 2 ^ (2 * q) % 4 := by
  unfold attrField; rw [BitVec.extractLsb'_toNat, Nat.shiftRight_eq_div_pow]

theorem planeColour_toNat (hi lo : Byte) (b : Nat) :
    (planeColour hi lo b).toNat = hi.toNat / 2 ^ b % 2 * 2 + lo.toNat / 2 ^ b % 2 := by
  refine (BitVec.toNat_append (hi.extractLsb' b 1) (lo.extractLsb' b 1)).trans ?_
  rw [shiftLeft_or_of_lt (BitVec.isLt _), bit_toNat, bit_toNat, Nat.pow_one]

theorem pixelValue_toNat (p c : BitVec 2) : (pixelValue p c).toNat = p.toNat * 4 + c.toNat := by
  revert p c; decide

theorem pixelValue_le (p c : BitVec 2) : (pixelValue p c).toNat ≤ 15 := by
  rw [pixelValue_toNat]; have := p.isLt; have := c.isLt; omega

theorem sprPalette_toNat (attr : Byte) : (sprPalette attr).toNat = attr.toNat % 4 := by
  unfold sprPalette; rw [BitVec.extractLsb'_toNat]; rfl

theorem evenTile_toNat (b : Byte) : (b &&& 0xFE#8).toNat = b.toNat / 2 * 2 := by
  revert b; decide +kernel

theorem ntBase_toNat (s : State) : s.ntBase = 0x2000 + 0x400 * (s.ctrl.toNat % 4) := by
  unfold State.ntBase; rw [BitVec.extractLsb'_toNat]; rfl

/-- A sprite's pixel is never 0 (R152). -/
theorem pixelValue_ne_zero (p c : BitVec 2) (h : c ≠ 0#2) : pixelValue p c ≠ 0#8 := by
  revert p c; decide

end Sys2Proof.Machine
end

