-- ==== Sys2Proof/Laws/Decode.lean ====
section
/-! SUPPORT. The transaction word as a number, its two fields, and that the byte layout loses nothing, so that no later
proof opens the concatenations. -/
namespace Sys2Proof

open Sys2Proof.Machine

theorem BusTxn.addr_toNat (x : BusTxn) : x.addr.toNat = x.word.toNat % 65536 := by
  unfold BusTxn.addr; rw [BitVec.extractLsb'_toNat]; rfl

theorem BusTxn.isWrite_iff (x : BusTxn) : x.isWrite = true ↔ 65536 ≤ x.word.toNat := by
  unfold BusTxn.isWrite
  have := x.word.isLt
  rw [BitVec.getLsbD, Nat.testBit_eq_decide_div_mod_eq]
  simp; omega

theorem readWord_toNat (a : Addr) : (0#1 ++ a : BitVec 17).toNat = a.toNat := by
  refine (BitVec.toNat_append (0#1) a).trans ?_
  rw [shiftLeft_or_of_lt a.isLt]; simp

theorem writeWord_toNat (a : Addr) : (1#1 ++ a : BitVec 17).toNat = 65536 + a.toNat := by
  refine (BitVec.toNat_append (1#1) a).trans ?_
  rw [shiftLeft_or_of_lt a.isLt]; simp

@[simp] theorem isWrite_readWord (a : Addr) (d : Byte) : BusTxn.isWrite ⟨0#1 ++ a, d⟩ = false := by
  rw [Bool.eq_false_iff, ne_eq, BusTxn.isWrite_iff]; simp only [readWord_toNat]; have := a.isLt; omega

@[simp] theorem isWrite_writeWord (a : Addr) (d : Byte) : BusTxn.isWrite ⟨1#1 ++ a, d⟩ = true := by
  rw [BusTxn.isWrite_iff]; simp only [writeWord_toNat]; omega

@[simp] theorem addr_readWord (a : Addr) (d : Byte) : BusTxn.addr ⟨0#1 ++ a, d⟩ = a := by
  apply BitVec.eq_of_toNat_eq; rw [BusTxn.addr_toNat, readWord_toNat]; have := a.isLt; omega

@[simp] theorem addr_writeWord (a : Addr) (d : Byte) : BusTxn.addr ⟨1#1 ++ a, d⟩ = a := by
  apply BitVec.eq_of_toNat_eq; rw [BusTxn.addr_toNat, writeWord_toNat]; have := a.isLt; omega

/-- A read's word is direction 0 above its address (R70). -/
theorem BusTxn.word_of_read {x : BusTxn} (h : x.isWrite = false) : x.word = 0#1 ++ x.addr := by
  have := x.isWrite_iff
  have ha := x.addr_toNat
  have hlt := x.word.isLt
  apply BitVec.eq_of_toNat_eq
  rw [readWord_toNat]; rw [h] at this; simp only [Bool.false_eq_true, false_iff] at this; omega

/-- A write's word is direction 1 above its address (R70). -/
theorem BusTxn.word_of_write {x : BusTxn} (h : x.isWrite = true) : x.word = 1#1 ++ x.addr := by
  have := x.isWrite_iff.1 h
  have ha := x.addr_toNat
  have hlt := x.word.isLt
  apply BitVec.eq_of_toNat_eq
  rw [writeWord_toNat]; omega

/-- The byte layout loses nothing (log 10). -/
theorem OpWord.ofBytes_toBytes (w : OpWord) : OpWord.ofBytes w.toBytes = .ok w := by
  cases w with
  | bus x =>
    obtain ⟨t, v⟩ := x
    have h : ((t.extractLsb' 16 1).zeroExtend 8).toNat < 2 := by
      have := (t.extractLsb' 16 1).isLt; simp only [BitVec.toNat_setWidth]; omega
    have e : ((t.extractLsb' 16 1).zeroExtend 8).extractLsb' 0 1 ++ t.extractLsb' 8 8 ++ t.extractLsb' 0 8 = t := by
      apply BitVec.eq_of_toNat_eq
      rw [BitVec.toNat_append, BitVec.toNat_append, shiftLeft_or_of_lt (BitVec.isLt _),
        shiftLeft_or_of_lt (BitVec.isLt _)]
      have := t.isLt
      simp only [BitVec.extractLsb'_toNat, BitVec.toNat_setWidth, Nat.shiftRight_eq_div_pow]
      omega
    simp only [OpWord.toBytes, OpWord.ofBytes]
    rw [if_pos h]
    exact congrArg (fun t => Except.ok (OpWord.bus ⟨t, v⟩)) e
  | seq c => revert c; decide

theorem atPort_iff (p : Nat) (a : Addr) :
    atPort p a = true ↔ 0x2000 ≤ a.toNat ∧ a.toNat < 0x4000 ∧ a.toNat % 8 = p := by
  simp [atPort, and_assoc]

end Sys2Proof
end

