-- ==== Sys2Proof/Laws/PerInstr.lean ====
section
/-! SUPPORT. One lemma per operation about its encoding: its length, and that its bytes carry exactly its word (R70, R84;
the byte layout is log 10). -/
namespace Sys2Proof.Laws.Encoding

/-- An operation takes one byte or four, and decoding its bytes is decoding its word. -/
def Statement (i : Instr) : Prop :=
  (encode i).length = (if i.isBus then 4 else 1) ∧ decodeBytes (encode i) = decodeWord (encodeWord i)

theorem decode_encode (i : Instr) : decodeBytes (encode i) = decodeWord (encodeWord i) := by
  simp only [decodeBytes, encode, OpWord.ofBytes_toBytes]

theorem ramR (a : Addr) : Statement (.ramR a) := ⟨rfl, decode_encode _⟩

theorem ramW (a : Addr) (v : Byte) : Statement (.ramW a v) := ⟨rfl, decode_encode _⟩

theorem ctrlR (a : Addr) : Statement (.ctrlR a) := ⟨rfl, decode_encode _⟩

theorem ctrlW (a : Addr) (v : Byte) : Statement (.ctrlW a v) := ⟨rfl, decode_encode _⟩

theorem maskR (a : Addr) : Statement (.maskR a) := ⟨rfl, decode_encode _⟩

theorem maskW (a : Addr) (v : Byte) : Statement (.maskW a v) := ⟨rfl, decode_encode _⟩

theorem statusR (a : Addr) : Statement (.statusR a) := ⟨rfl, decode_encode _⟩

theorem statusW (a : Addr) (v : Byte) : Statement (.statusW a v) := ⟨rfl, decode_encode _⟩

theorem oamaddrR (a : Addr) : Statement (.oamaddrR a) := ⟨rfl, decode_encode _⟩

theorem oamaddrW (a : Addr) (v : Byte) : Statement (.oamaddrW a v) := ⟨rfl, decode_encode _⟩

theorem oamdataR (a : Addr) : Statement (.oamdataR a) := ⟨rfl, decode_encode _⟩

theorem oamdataW (a : Addr) (v : Byte) : Statement (.oamdataW a v) := ⟨rfl, decode_encode _⟩

theorem scrollR (a : Addr) : Statement (.scrollR a) := ⟨rfl, decode_encode _⟩

theorem scrollW (a : Addr) (v : Byte) : Statement (.scrollW a v) := ⟨rfl, decode_encode _⟩

theorem addrR (a : Addr) : Statement (.addrR a) := ⟨rfl, decode_encode _⟩

theorem addrW (a : Addr) (v : Byte) : Statement (.addrW a v) := ⟨rfl, decode_encode _⟩

theorem dataR (a : Addr) : Statement (.dataR a) := ⟨rfl, decode_encode _⟩

theorem dataW (a : Addr) (v : Byte) : Statement (.dataW a v) := ⟨rfl, decode_encode _⟩

theorem oamdmaW (v : Byte) : Statement (.oamdmaW v) := ⟨rfl, decode_encode _⟩

theorem joy1R : Statement (.joy1R) := ⟨rfl, decode_encode _⟩

theorem joy1W (v : Byte) : Statement (.joy1W v) := ⟨rfl, decode_encode _⟩

theorem openR (a : Addr) : Statement (.openR a) := ⟨rfl, decode_encode _⟩

theorem openW (a : Addr) (v : Byte) : Statement (.openW a v) := ⟨rfl, decode_encode _⟩

theorem prgR (a : Addr) : Statement (.prgR a) := ⟨rfl, decode_encode _⟩

theorem prgW (a : Addr) (v : Byte) : Statement (.prgW a v) := ⟨rfl, decode_encode _⟩

theorem seqActive : Statement (.seqActive) := ⟨rfl, decode_encode _⟩

theorem seqPostrender : Statement (.seqPostrender) := ⟨rfl, decode_encode _⟩

theorem seqVblank : Statement (.seqVblank) := ⟨rfl, decode_encode _⟩

end Sys2Proof.Laws.Encoding
end

