-- ==== Sys2Proof/Laws/Raster.lean ====
section
/-! SUPPORT. What drawing a tile or a sprite pixel does to the frame buffer, and that the passes keep its form. -/
namespace Sys2Proof.Machine

/-- Two pixels in the frame share a cell only if they are the same pixel. -/
theorem fbIndex_inj {y x y' x' : Nat} (h : x < 256) (h' : x' < 256) :
    fbIndex y x = fbIndex y' x' ↔ y = y' ∧ x = x' := by
  unfold fbIndex; omega

theorem fbIndex_lt {y x : Nat} (hy : y < 240) (hx : x < 256) : fbIndex y x < 61440 := by
  unfold fbIndex; omega

/-- Writes at distinct cells: each cell holds what was written there. -/
theorem Memory.read_foldl_range_write (n : Nat) (key : Nat → Nat) (value : Nat → Byte) (m : Memory) (j : Nat)
    (hj : j < n) (inj : ∀ i, i < n → key i = key j → i = j) :
    ((List.range n).foldl (fun m i => m.write (key i) (value i)) m).read (key j) = value j := by
  induction n with
  | zero => omega
  | succ n ih =>
    rw [List.range_succ, List.foldl_append, List.foldl_cons, List.foldl_nil, Memory.read_write]
    split
    · rename_i h; rw [inj n (by omega) h.symm]
    · rename_i h
      have : j ≠ n := fun e => h (by rw [e])
      exact ih (by omega) (fun i hi => inj i (by omega))

/-- A tile's 8 pixels: columns `8 * tc .. 8 * tc + 7` of its row hold them, every other pixel is as before. -/
theorem drawTile_read (line tc : Nat) (pal : BitVec 2) (hi lo : Byte) (fb : Memory) (y x : Nat) (hx : x < 256)
    (htc : tc < 32) :
    (drawTile line tc pal hi lo fb).read (fbIndex y x) =
      if y = line ∧ x / 8 = tc then pixelValue pal (planeColour hi lo (7 - x % 8)) else fb.read (fbIndex y x) := by
  unfold drawTile
  split
  · rename_i h
    obtain ⟨rfl, rfl⟩ := h
    have hk : fbIndex y x = fbIndex y (x / 8 * 8 + x % 8) := by unfold fbIndex; omega
    rw [hk]
    exact Memory.read_foldl_range_write 8 (fun j => fbIndex y (x / 8 * 8 + j))
      (fun j => pixelValue pal (planeColour hi lo (7 - j))) fb (x % 8) (by omega)
      (fun i _ h => by unfold fbIndex at h; omega)
  · rename_i h
    refine Memory.foldl_write_read (List.range 8) (fun j => fbIndex line (tc * 8 + j))
      (fun j => pixelValue pal (planeColour hi lo (7 - j))) fb (fbIndex y x) (fun j hj e => h ?_)
    have := List.mem_range.1 hj
    have := (fbIndex_inj (by omega) hx).1 e
    exact ⟨this.1.symm, by omega⟩

/-- One sprite pixel writes one cell or none (R151, R152). -/
theorem drawSpritePixel_read (line : Nat) (attr : Byte) (x : Nat) (colour : BitVec 2) (fb : Memory) (k : Nat) :
    (drawSpritePixel line attr x colour fb).read k =
      if k = fbIndex line x ∧ colour ≠ 0#2 ∧ x < 256 ∧
          (sprBehind attr = false ∨ fb.read (fbIndex line x) = 0#8) then pixelValue (sprPalette attr) colour
      else fb.read k := by
  unfold drawSpritePixel
  split
  · rename_i h; rw [if_neg (by tauto)]
  · split
    · rename_i h; rw [if_neg (by omega)]
    · split
      · rename_i h1 h2 h3
        rw [Memory.read_write]
        simp only [Bool.or_eq_true, Bool.not_eq_true', beq_iff_eq] at h3
        by_cases hk : k = fbIndex line x
        · rw [if_pos hk, if_pos ⟨hk, h1, by omega, h3⟩]
        · rw [if_neg hk, if_neg (fun h => hk h.1)]
      · rename_i h1 h2 h3
        simp only [Bool.or_eq_true, Bool.not_eq_true', beq_iff_eq] at h3
        rw [if_neg (fun h => h3 h.2.2.2)]

/-- The activity test as a proposition (R148). -/
theorem State.spriteActive_iff (s : State) (line i : Nat) : s.spriteActive line i = true ↔
    s.spriteY i ≤ line ∧ line < s.spriteY i + s.spriteHeight ∧ s.spriteY i < 240 := by
  unfold State.spriteActive
  simp only [Bool.and_eq_true, decide_eq_true_eq, and_assoc]

/-- The background pass gives every pixel of the row the one of its tile (R141 to R145). -/
theorem State.backgroundPass_read (s : State) (line : Nat) (fb : Memory) (y x : Nat) (hx : x < 256) :
    (s.backgroundPass line fb).read (fbIndex y x) =
      if y = line then s.backgroundPixel line x else fb.read (fbIndex y x) := by
  have key : ∀ n, n ≤ 32 → ((List.range n).foldl
      (fun fb tc => drawTile line tc (s.bgPalette line tc) (s.vramRead (s.bgPatternAddr line tc + 8))
        (s.vramRead (s.bgPatternAddr line tc)) fb) fb).read (fbIndex y x) =
      if y = line ∧ x / 8 < n then s.backgroundPixel line x else fb.read (fbIndex y x) := by
    intro n
    induction n with
    | zero => simp
    | succ n ih =>
      intro hn
      rw [List.range_succ, List.foldl_append, List.foldl_cons, List.foldl_nil, drawTile_read _ _ _ _ _ _ _ _ hx (by omega),
        ih (by omega)]
      by_cases h : y = line ∧ x / 8 = n
      · obtain ⟨rfl, rfl⟩ := h
        rw [if_pos ⟨rfl, rfl⟩, if_pos ⟨rfl, by omega⟩]; rfl
      · rw [if_neg h]
        by_cases h2 : y = line ∧ x / 8 < n
        · rw [if_pos h2, if_pos ⟨h2.1, by omega⟩]
        · rw [if_neg h2, if_neg (by omega)]
  refine (key 32 (Nat.le_refl _)).trans ?_
  simp only [show x / 8 < 32 by omega, and_true]

/-- Drawing one active entry gives each pixel of the row what the entry makes of it (R149 to R152). -/
theorem State.drawSprite_read (s : State) (line i : Nat) (fb : Memory) (y x : Nat) (hx : x < 256)
    (ha : s.spriteActive line i = true) :
    (s.drawSprite line i fb).read (fbIndex y x) =
      if y = line then s.spriteOver line x (fb.read (fbIndex line x)) i else fb.read (fbIndex y x) := by
  have key : ∀ n, n ≤ 8 → ((List.range n).foldl
      (fun fb px => drawSpritePixel line (s.oamField i 2) ((s.oamField i 3).toNat + px)
          (planeColour (s.vramRead (s.spritePatternAddr line i + 8)) (s.vramRead (s.spritePatternAddr line i))
            (spriteBit (s.oamField i 2) px)) fb) fb).read (fbIndex y x) =
      if y = line ∧ (s.oamField i 3).toNat ≤ x ∧ x < (s.oamField i 3).toNat + n then
        s.spriteOver line x (fb.read (fbIndex line x)) i else fb.read (fbIndex y x) := by
    intro n
    induction n with
    | zero => intro _; rw [if_neg (by omega)]; rfl
    | succ n ih =>
      intro hn
      rw [List.range_succ, List.foldl_append, List.foldl_cons, List.foldl_nil, drawSpritePixel_read]
      by_cases hk : fbIndex y x = fbIndex line ((s.oamField i 3).toNat + n)
      · by_cases hl : (s.oamField i 3).toNat + n < 256
        · have := (fbIndex_inj hx hl).1 hk
          obtain ⟨rfl, hxx⟩ := this
          rw [← hk]
          have e := ih (by omega)
          rw [if_neg (by omega)] at e
          have r : ∀ u v : Byte, (if y = y ∧ (s.oamField i 3).toNat ≤ x ∧ x < (s.oamField i 3).toNat + (n + 1) then u else v) = u :=
            fun u v => if_pos ⟨rfl, by omega, by omega⟩
          rw [e, r]
          simp only [State.spriteOver]
          have : x - (s.oamField i 3).toNat = n := by omega
          rw [this]
          simp only [ha, true_and, hl, show (s.oamField i 3).toNat ≤ x by omega, show x < (s.oamField i 3).toNat + 8 by omega]
        · rw [if_neg (fun h => hl h.2.2.1), ih (by omega)]
          by_cases h2 : y = line ∧ (s.oamField i 3).toNat ≤ x ∧ x < (s.oamField i 3).toNat + n
          · rw [if_pos h2, if_pos (by omega)]
          · rw [if_neg h2, if_neg (by omega)]
      · rw [if_neg (fun h => hk h.1), ih (by omega)]
        by_cases h2 : y = line ∧ (s.oamField i 3).toNat ≤ x ∧ x < (s.oamField i 3).toNat + n
        · rw [if_pos h2, if_pos (by omega)]
        · rw [if_neg h2, if_neg]
          intro h3
          apply hk
          have : x = (s.oamField i 3).toNat + n := by omega
          rw [h3.1, this]
  refine (key 8 (Nat.le_refl _)).trans ?_
  by_cases hy : y = line
  · subst hy
    by_cases h2 : (s.oamField i 3).toNat ≤ x ∧ x < (s.oamField i 3).toNat + 8
    · rw [if_pos ⟨rfl, h2⟩, if_pos rfl]
    · rw [if_neg (by tauto), if_pos rfl]
      simp only [State.spriteOver]
      rw [if_neg (by tauto)]
  · rw [if_neg (by tauto), if_neg hy]

theorem State.spriteOver_inactive (s : State) (line x i : Nat) (b : Byte) (h : s.spriteActive line i = false) :
    s.spriteOver line x b i = b := by
  simp [State.spriteOver, h]

/-- A property of frame buffers that survives a write of a pixel value inside row `line` survives the rendering of that
row. -/
theorem State.rendered_keeps (P : Memory → Prop) (s : State) (line : Nat)
    (h : ∀ fb x p c, x < 256 → P fb → P (fb.write (fbIndex line x) (pixelValue p c))) (hs : P s.fb) :
    P (s.rendered line) := by
  have bg : P (s.backgroundPass line s.fb) := by
    unfold State.backgroundPass
    refine Memory.foldl_keeps P _ _ _ hs (fun fb tc htc hfb => ?_)
    dsimp only
    unfold drawTile
    refine Memory.foldl_keeps P _ _ _ hfb (fun fb x hx hfb => h fb _ _ _ ?_ hfb)
    have := List.mem_range.1 htc; have := List.mem_range.1 hx; omega
  have spr : ∀ fb, P fb → P (s.spritePass line fb) := by
    intro fb hfb
    unfold State.spritePass
    refine Memory.foldl_keeps P _ _ _ hfb (fun fb i _ hfb => ?_)
    split
    · unfold State.drawSprite
      refine Memory.foldl_keeps P _ _ _ hfb (fun fb px _ hfb => ?_)
      unfold drawSpritePixel
      (repeat' split) <;> first | exact hfb | exact h fb _ _ _ (by omega) hfb
    · exact hfb
  unfold State.rendered
  dsimp only
  (repeat' split) <;> first | exact hs | exact bg | exact spr _ bg | exact spr _ hs

end Sys2Proof.Machine
end

