-- ==== Sys2Proof/Laws/Safety.lean ====
section
/-! SUPPORT. The memory operations keep a memory of `n` cells in canonical form one, reset's
memories are such, and what a call of the CPU engine does to the counts of what was sent out. -/
namespace Sys2Proof.Machine

theorem Memory.sized_nil (n : Nat) : Memory.Sized n [] := ⟨rfl, rfl⟩

theorem Memory.Sized.write {n : Nat} {m : Memory} (h : Memory.Sized n m) (a : Nat) (v : Byte) (ha : a < n) :
    Memory.Sized n (m.write a v) :=
  ⟨Memory.wf_write m a v h.wf, Memory.below_write m a v h.below ha⟩

theorem Memory.Sized.fill {n : Nat} {m : Memory} (h : Memory.Sized n m) (k : Nat) (value : Nat → Byte) (hk : k ≤ n) :
    Memory.Sized n (m.fill k value) :=
  ⟨Memory.wf_fill k value m h.wf, Memory.below_fill k value m h.below hk⟩

/-- Every memory of the reset state is in canonical form. -/
theorem reset_memories_wf : State.reset.nt.wf = true ∧ State.reset.oam.wf = true ∧ State.reset.pal.wf = true ∧
    State.reset.fb.wf = true ∧ State.reset.ram.wf = true ∧ State.reset.cart.data.wf = true :=
  ⟨rfl, rfl, rfl, rfl, rfl, rfl⟩

theorem busEffect_budgetCount (i : Instr) (s : State) : (busEffect i s).budgetCount = s.budgetCount := by
  cases i <;> simp only [busEffect, ramR, ramW, ctrlR, ctrlW, maskR, maskW, statusR, statusW, oamaddrR, oamaddrW,
    oamdataR, oamdataW, scrollR, scrollW, addrR, addrW, dataR, dataW, oamdmaW, joy1R, joy1W, openR, openW, prgR, prgW,
    State.writeOnlyRead, onPrgWrite, bankSelect, State.vramWrite_eq, State.pollButtons_snd, State.budgetCount] <;>
    (repeat' split) <;> simp

theorem busEffect_frameCount (i : Instr) (s : State) : (busEffect i s).frameCount = s.frameCount := by
  cases i <;> simp only [busEffect, ramR, ramW, ctrlR, ctrlW, maskR, maskW, statusR, statusW, oamaddrR, oamaddrW,
    oamdataR, oamdataW, scrollR, scrollW, addrR, addrW, dataR, dataW, oamdmaW, joy1R, joy1W, openR, openW, prgR, prgW,
    State.writeOnlyRead, onPrgWrite, bankSelect, State.vramWrite_eq, State.pollButtons_snd, State.frameCount] <;>
    (repeat' split) <;> simp

theorem executeCycles_counts (s : State) :
    (executeCycles s).budgetCount = s.budgetCount + 1 ∧ (executeCycles s).frameCount = s.frameCount := by
  unfold executeCycles
  refine runBudget_keeps (fun t => t.budgetCount = s.budgetCount + 1 ∧ t.frameCount = s.frameCount) (fun i t ht => ?_) _ _ ?_
  · rw [busEffect_budgetCount, busEffect_frameCount]; exact ht
  · simp [State.takeBudget_snd, State.budgetCount, State.frameCount]

end Sys2Proof.Machine
end

