-- ==== Sys2Proof/Laws/Sequencer.lean ====
section
/-! SUPPORT. The whole effect of the vblank entry and of the sequencer's steps over a call of the CPU engine, and what no
sequencer step changes. -/
namespace Sys2Proof.Machine

/-- The vblank entry changes the flag and the trace, and nothing else (R178, R181). -/
theorem enterVblank_eq (s : State) :
    enterVblank s =
      { s with
        status := s.status ||| 0x80#8
        trace := (if s.nmiEnable then [Output.raiseNmi] else []) ++ s.trace } := by
  unfold enterVblank
  dsimp only
  have h : s.setVblank.nmiEnable = s.nmiEnable := rfl
  rw [h]
  cases s.nmiEnable <;> rfl

/-- SEQ.POSTRENDER over the call of the CPU engine (R177, R182). -/
theorem seqPostrender_eq (s : State) :
    seqPostrender s =
      { executeCycles s with
        answers := s.answers.tail
        drawn := (executeCycles s).presentFrame.2.drawn
        halted := if (executeCycles s).presentFrame.1 = .close then true else s.halted
        status := if (executeCycles s).presentFrame.1 = .close then (executeCycles s).status
                  else (executeCycles s).status ||| 0x80#8
        scanline := if (executeCycles s).presentFrame.1 = .close then s.scanline else 241#9
        trace := if (executeCycles s).presentFrame.1 = .close
                 then .presentFrame s.fb Config.masterRgb :: (executeCycles s).trace
                 else (if (executeCycles s).nmiEnable then [Output.raiseNmi] else []) ++
                   .presentFrame s.fb Config.masterRgb :: (executeCycles s).trace } := by
  unfold seqPostrender
  dsimp only
  cases h : (executeCycles s).presentFrame.1 <;>
    simp [enterVblank_eq, State.presentFrame_snd]
  rfl

/-- SEQ.VBLANK over the call of the CPU engine (R179, R180). -/
theorem seqVblank_eq (s : State) :
    seqVblank s =
      { executeCycles s with
        status := if s.scanline = 260#9 then (executeCycles s).status &&& 0x7F#8 else (executeCycles s).status
        scanline := if s.scanline = 260#9 then 0#9 else s.scanline + 1#9 } := by
  unfold seqVblank
  dsimp only
  split <;> rfl

@[simp] theorem seqActive_fb (s : State) : (seqActive s).fb = s.rendered s.scanline.toNat := by
  simp [seqActive]

@[simp] theorem seqActive_scanline (s : State) : (seqActive s).scanline = s.scanline + 1#9 := rfl

@[simp] theorem seqActive_cart (s : State) : (seqActive s).cart = s.cart := by simp [seqActive]

@[simp] theorem seqPostrender_fb (s : State) : (seqPostrender s).fb = s.fb := by simp [seqPostrender_eq]

@[simp] theorem seqPostrender_cart (s : State) : (seqPostrender s).cart = s.cart := by simp [seqPostrender_eq]

@[simp] theorem seqVblank_fb (s : State) : (seqVblank s).fb = s.fb := by simp [seqVblank_eq]

@[simp] theorem seqVblank_cart (s : State) : (seqVblank s).cart = s.cart := by simp [seqVblank_eq]

@[simp] theorem seqVblank_halted (s : State) : (seqVblank s).halted = s.halted := by simp [seqVblank_eq]

@[simp] theorem seqVblank_answers (s : State) : (seqVblank s).answers = s.answers := by simp [seqVblank_eq]

end Sys2Proof.Machine
end

