-- ==== Sys2Proof/Laws/Step.lean ====
section
/-! SUPPORT. Everything one step can do: a transaction presented next, nothing once the run is over, or the sequencer's
step of the scanline. -/
namespace Sys2Proof.Machine

/-- A transaction never selects a sequencer step (R71). -/
theorem decodeBus_isBus (x : BusTxn) : (decodeBus x).isBus = true := by
  unfold decodeBus decodeRead decodeWrite decodePortRead decodePortWrite
  (repeat' split) <;> rfl

theorem step_pending (s : State) (x : BusTxn) (rest : List BusTxn) (h : s.pending = x :: rest) :
    step s = .next (busTransaction { s with pending := rest } x) := by
  unfold step fetch
  rw [h]
  exact exec_bus _ _ (decodeBus_isBus x)

/-- The inversion of a step: everything it can do (R71, R175, R182). -/
theorem step_cases {s t : State} (h : step s = .next t) :
    (∃ x rest, s.pending = x :: rest ∧ t = busEffect (decodeBus x) { s with pending := rest }) ∨
    (s.pending = [] ∧ s.halted = true ∧ t = s) ∨
    (s.pending = [] ∧ s.halted = false ∧ s.scanline.toNat ≤ 239 ∧ t = seqActive s) ∨
    (s.pending = [] ∧ s.halted = false ∧ s.scanline.toNat = 240 ∧ t = seqPostrender s) ∨
    (s.pending = [] ∧ s.halted = false ∧ 241 ≤ s.scanline.toNat ∧ t = seqVblank s) := by
  unfold step fetch at h
  split at h
  · rename_i i u hf
    split at hf
    · rename_i x rest hp
      cases hf
      rw [exec_bus _ _ (decodeBus_isBus x)] at h; cases h
      exact .inl ⟨x, rest, hp, rfl⟩
    · rename_i hp
      split at hf
      · cases hf
      · rename_i hh
        cases hf
        have hh : s.halted = false := by simpa using hh
        unfold seqInstr at h
        split at h
        · cases h; exact .inr (.inr (.inl ⟨hp, hh, ‹_›, rfl⟩))
        · split at h
          · cases h; exact .inr (.inr (.inr (.inl ⟨hp, hh, ‹_›, rfl⟩)))
          · cases h; exact .inr (.inr (.inr (.inr ⟨hp, hh, by omega, rfl⟩)))
  · rename_i hf
    cases h
    split at hf
    · cases hf
    · split at hf
      · exact .inr (.inl ⟨‹_›, ‹_›, rfl⟩)
      · cases hf

/-- A run of one step more, when the first step is known. -/
theorem run_step {s t : State} (n : Nat) (h : step s = .next t) :
    Host.Core.run Sys2Proof.core (n + 1) s = Host.Core.run Sys2Proof.core n t := by
  have h' : Sys2Proof.core.step s = .next t := h
  simp only [Host.Core.run, h']

/-- A run of `m + n` steps is a run of `n` steps after one of `m`. -/
theorem run_add (m n : Nat) (s t : State) (h : Host.Core.run Sys2Proof.core m s = .next t) :
    Host.Core.run Sys2Proof.core (m + n) s = Host.Core.run Sys2Proof.core n t := by
  induction m generalizing s with
  | zero => cases h; rw [Nat.zero_add]
  | succ m ih =>
    simp only [Host.Core.run] at h
    cases hs : Sys2Proof.core.step s with
    | next u =>
      rw [hs] at h
      rw [show m + 1 + n = (m + n) + 1 by omega, run_step (s := s) (t := u) _ hs]
      exact ih u h
    | fault r => rw [hs] at h; cases h
    | refused r => rw [hs] at h; cases h

end Sys2Proof.Machine
end

