-- ==== Sys2Proof/Tests/Slice0.lean ====
section
/-! SUPPORT. Tests: the well-formedness smoke test, words written out from the opcode table, at most two small tests per
operation with their expected values from spec/95_test_vectors.md (the vector's name stands in each docstring), and for
every statement with hypotheses a concrete state and operands that meet them. -/
namespace Sys2Proof.Tests

open Sys2Proof Sys2Proof.Machine

/-! ## Well-formed -/

/-- Each check refuses an operation whose address selects another one (R41, R71). -/
theorem test_wellFormed_refuses :
    (Instr.ramR 0x2000#16).wellFormed = false ∧ (Instr.ramW 0x2000#16 0#8).wellFormed = false ∧
    (Instr.ctrlR 0x2001#16).wellFormed = false ∧ (Instr.maskW 0x4001#16 0#8).wellFormed = false ∧
    (Instr.statusR 0x1FFA#16).wellFormed = false ∧ (Instr.oamaddrW 0x2004#16 0#8).wellFormed = false ∧
    (Instr.oamdataR 0x2005#16).wellFormed = false ∧ (Instr.scrollW 0x2006#16 0#8).wellFormed = false ∧
    (Instr.addrW 0x2007#16 0#8).wellFormed = false ∧ (Instr.dataR 0x2008#16).wellFormed = false ∧
    (Instr.openR 0x4016#16).wellFormed = false ∧ (Instr.openW 0x4014#16 0#8).wellFormed = false ∧
    (Instr.openW 0x4016#16 0#8).wellFormed = false ∧ (Instr.openR 0x8000#16).wellFormed = false ∧
    (Instr.openW 0x3FFF#16 0#8).wellFormed = false ∧ (Instr.prgR 0x7FFF#16).wellFormed = false ∧
    (Instr.prgW 0x7FFF#16 0#8).wellFormed = false := by decide

theorem test_wellFormed_accepts :
    (Instr.ramR 0x1FFF#16).wellFormed = true ∧ (Instr.dataW 0x3FFF#16 0#8).wellFormed = true ∧
    (Instr.openR 0x4014#16).wellFormed = true ∧ (Instr.openW 0x7FFF#16 0#8).wellFormed = true ∧
    (Instr.prgW 0x8000#16 0#8).wellFormed = true ∧ Instr.seqVblank.wellFormed = true := by decide

/-! ## Decode -/

/-- The `match` word of each row of the opcode table selects that row's operation. -/
theorem test_decode_rows_ram_to_status :
    [0x00000, 0x10000, 0x02000, 0x12000, 0x02001, 0x12001, 0x02002, 0x12002].map (decodeTableWord 24) =
      [some (.ramR 0x0000#16), some (.ramW 0x0000#16 0#8), some (.ctrlR 0x2000#16), some (.ctrlW 0x2000#16 0#8),
       some (.maskR 0x2001#16), some (.maskW 0x2001#16 0#8), some (.statusR 0x2002#16),
       some (.statusW 0x2002#16 0#8)] := by decide

/-- The same for the other ports. -/
theorem test_decode_rows_oam_to_data :
    [0x02003, 0x12003, 0x02004, 0x12004, 0x02005, 0x12005, 0x02006, 0x12006, 0x02007,
     0x12007].map (decodeTableWord 24) =
      [some (.oamaddrR 0x2003#16), some (.oamaddrW 0x2003#16 0#8), some (.oamdataR 0x2004#16),
       some (.oamdataW 0x2004#16 0#8), some (.scrollR 0x2005#16), some (.scrollW 0x2005#16 0#8),
       some (.addrR 0x2006#16), some (.addrW 0x2006#16 0#8), some (.dataR 0x2007#16), some (.dataW 0x2007#16 0#8)] :=
       by decide

/-- The same for the rows from 0x4000 on. -/
theorem test_decode_rows_high :
    [0x14014, 0x04016, 0x14016, 0x04000, 0x14000, 0x08000, 0x18000].map (decodeTableWord 24) =
      [some (.oamdmaW 0#8), some (.joy1R), some (.joy1W 0#8), some (.openR 0x4000#16), some (.openW 0x4000#16 0#8),
       some (.prgR 0x8000#16), some (.prgW 0x8000#16 0#8)] := by decide

/-- The state codes of R84, as the one byte of their table rows. -/
theorem test_decode_rows_seq :
    [0, 1, 2, 3].map (decodeTableWord 8) = [some .seqActive, some .seqPostrender, some .seqVblank, none] := by decide

/-- The last address of each range, and the rows that win over the catch-all rows (R71's priority). -/
theorem test_decode_priority :
    [0x01FFF, 0x03FFF, 0x13FF8, 0x04014, 0x04015, 0x04017, 0x14015, 0x14017, 0x07FFF,
     0x0FFFF].map (decodeTableWord 24) =
      [some (.ramR 0x1FFF#16), some (.dataR 0x3FFF#16), some (.ctrlW 0x3FF8#16 0#8), some (.openR 0x4014#16),
       some (.openR 0x4015#16), some (.openR 0x4017#16), some (.openW 0x4015#16 0#8), some (.openW 0x4017#16 0#8),
       some (.openR 0x7FFF#16), some (.prgR 0xFFFF#16)] := by decide

/-- Bytes that are no operation are rejected by name. -/
theorem test_decode_rejects :
    decodeBytes [] = .error .badLength ∧ decodeBytes [0#8, 0#8, 2#8, 0#8] = .error .unusedBusBits ∧
    decodeBytes [4#8] = .error .unusedSeqBits ∧ decodeBytes [3#8] = .error .noSuchSequencerState := by decide

/-! ## Helpers: one step on a small state -/

/-- The state after a step, if there is one. -/
def next (s : State) : Option State :=
  match step s with
  | .next t => some t
  | _ => none

/-- The state after a read of `a` is presented and performed. -/
def afterRead (a : Addr) (s : State) : Option State := next { s with pending := [.read a] }

/-- The state after a write of `v` to `a` is presented and performed. -/
def afterWrite (a : Addr) (v : Byte) (s : State) : Option State := next { s with pending := [.write a v] }

/-- The state of the vectors: reset, but nothing sent out yet. -/
def start : State := { State.reset with trace := [] }

/-- A cartridge with 2 PRG units and 4 CHR units under the bank-switch-by-value mapper. -/
def banked : Cartridge := ⟨32768, 32768, 4, .vertical, 3#8, [(0, 0x4C#8), (0x7FFF, 0xEA#8), (0xC010, 0xB2#8)]⟩

/-- An idle CPU engine for one step. -/
def idle (s : State) : State := { s with budgets := [[]] }

/-! ## One step per operation -/

/-- B1: a write through address 5 is read through a mirror. -/
theorem test_ramR : (afterRead 0x1805#16 { start with ram := [(5, 0xAB#8)] }).map (·.trace) =
    some [.returned 0xAB#8] := by decide

/-- B2. -/
theorem test_ramW : (afterWrite 0x1FFF#16 0x12#8 start).map (·.ram) = some [(0x7FF, 0x12#8)] := by decide

/-- P7. -/
theorem test_ctrlR : afterRead 0x2000#16 start = some { start with trace := [.returned 0xFF#8] } := by decide

/-- P1: one NMI on the rising edge of bit 7 during vblank. -/
theorem test_ctrlW_edge : afterWrite 0x2000#16 0x84#8 { start with status := 0x80#8 } =
    some { start with status := 0x80#8, ctrl := 0x84#8, trace := [.raiseNmi] } := by decide

/-- P6: the derived fields, through the last mirror of port 0. -/
theorem test_ctrlW_fields : (afterWrite 0x3FF8#16 0x3F#8 start).map
    (fun s => [s.ctrl.toNat, s.ntBase, s.vramInc, s.bgPatternBase, s.sprPatternBase, s.spriteHeight, s.trace.length]) =
      some [0x3F, 0x2C00, 32, 0x1000, 0x1000, 16, 0] := by decide

/-- P7. -/
theorem test_maskR : afterRead 0x2001#16 start = some { start with trace := [.returned 0xFF#8] } := by decide

/-- R113's bits 3 and 4. -/
theorem test_maskW : (afterWrite 0x2001#16 0x10#8 start).map (fun s => (s.mask, s.bgVisible, s.sprVisible)) =
    some (0x10#8, false, true) := by decide

/-- P9, S2: the byte before the clear, at a mirror of port 2. -/
theorem test_statusR : afterRead 0x3FFA#16 { start with status := 0x80#8, wLatch := true } =
    some { start with trace := [.returned 0x80#8] } := by decide

/-- P8. -/
theorem test_statusW : afterWrite 0x2002#16 0#8 { start with status := 0x80#8, wLatch := true } =
    some { start with status := 0x80#8, wLatch := true } := by decide

/-- P7. -/
theorem test_oamaddrR : afterRead 0x2003#16 start = some { start with trace := [.returned 0xFF#8] } := by decide

/-- P10's first write. -/
theorem test_oamaddrW : afterWrite 0x2003#16 0xFE#8 start = some { start with oamAddr := 0xFE#8 } := by decide

/-- P11: the cursor stays. -/
theorem test_oamdataR : afterRead 0x2004#16 { start with oamAddr := 0xFF#8, oam := [(255, 0x22#8)] } =
    some { start with oamAddr := 0xFF#8, oam := [(255, 0x22#8)], trace := [.returned 0x22#8] } := by decide

/-- P10's second data write: the cursor wraps. -/
theorem test_oamdataW : afterWrite 0x2004#16 0x22#8 { start with oamAddr := 0xFF#8 } =
    some { start with oam := [(255, 0x22#8)] } := by decide

/-- P7. -/
theorem test_scrollR : afterRead 0x2005#16 start = some { start with trace := [.returned 0xFF#8] } := by decide

/-- S3's first write. -/
theorem test_scrollW_first : afterWrite 0x2005#16 0x0A#8 start = some { start with scrollX := 0x0A#8, wLatch :=
    true } := by decide

/-- S3's second write. -/
theorem test_scrollW_second : afterWrite 0x2005#16 0x14#8 { start with scrollX := 0x0A#8, wLatch := true } =
    some { start with scrollX := 0x0A#8, scrollY := 0x14#8 } := by decide

/-- P7. -/
theorem test_addrR : afterRead 0x2006#16 start = some { start with trace := [.returned 0xFF#8] } := by decide

/-- P13: bits 7:6 dropped, the low byte kept. -/
theorem test_addrW_first : afterWrite 0x2006#16 0x7F#8 { start with vramAddr := 0x0034#14 } =
    some { start with vramAddr := 0x3F34#14, wLatch := true } := by decide

/-- P12's second write. -/
theorem test_addrW_second : afterWrite 0x2006#16 0x08#8 { start with vramAddr := 0x2100#14, wLatch := true } =
    some { start with vramAddr := 0x2108#14 } := by decide

/-- P18's first read: the old buffer, refilled from 0x3EFF, and the step of 32. -/
theorem test_dataR_buffered : (afterRead 0x2007#16
      { start with vramAddr := 0x3EFF#14, ctrl := 0x04#8, readBuf := 0x77#8, nt := [(0x6FF, 0x66#8)] }).map
      (fun s => (s.trace, s.readBuf, s.vramAddr)) = some ([.returned 0x77#8], 0x66#8, 0x3F1F#14) := by decide

/-- P18's second read: a palette read is immediate and leaves the buffer. -/
theorem test_dataR_palette : (afterRead 0x2007#16
      { start with vramAddr := 0x3F1F#14, ctrl := 0x04#8, readBuf := 0x66#8, pal := [(0x1F, 0x2A#8)] }).map
      (fun s => (s.trace, s.readBuf, s.vramAddr)) = some ([.returned 0x2A#8], 0x66#8, 0x3F3F#14) := by decide

/-- P15: the address wraps at 0x3FFF. -/
theorem test_dataW_palette : afterWrite 0x2007#16 0x21#8 { start with vramAddr := 0x3FFF#14 } =
    some { start with pal := [(63, 0x21#8)] } := by decide

/-- P17: a store below 0x2000 is dropped. -/
theorem test_dataW_dropped : afterWrite 0x2007#16 0x55#8 { start with vramAddr := 0x0010#14 } =
    some { start with vramAddr := 0x0011#14 } := by decide

/-- B6: page 0x0B folds to 0x300. -/
theorem test_oamdmaW : (afterWrite 0x4014#16 0x0B#8 { start with ram := [(0x300, 0xEE#8), (0x301, 1#8), (0x3FF,
    0xFF#8)] }).map
    (·.oam) = some [(0, 0xEE#8), (1, 1#8), (255, 0xFF#8)] := by decide +kernel

/-- B9's first read, with A and Start latched. -/
theorem test_joy1R : afterRead 0x4016#16 { start with joyShift := 0x09#8 } =
    some { start with joyShift := 0x04#8, trace := [.returned 0x01#8] } := by decide

/-- B9's strobe: A is bit 0, Start bit 3. -/
theorem test_joy1W : (afterWrite 0x4016#16 0x02#8
      { start with buttons := [⟨true, false, false, true, false, false, false, false⟩] }).map
      (fun s => (s.joyShift, s.trace)) = some (0x09#8, [.pollButtonStates]) := by decide

/-- B8: a zero write does not latch. -/
theorem test_joy1W_zero : afterWrite 0x4016#16 0#8 start = some start := by decide

/-- B3, the write-only DMA port. -/
theorem test_openR : afterRead 0x4014#16 start = some { start with trace := [.returned 0xFF#8] } := by decide

/-- B5: a write below 0x8000 does not reach the mapper. -/
theorem test_openW : afterWrite 0x7FFF#16 0x03#8 { start with cart := banked } = some { start with cart :=
    banked } := by decide

/-- B12. -/
theorem test_prgR : (afterRead 0xFFFF#16 { start with cart := banked }).map (·.trace) = some [.returned 0xEA#8] := by
    decide

/-- S6, and M5: the redirection. -/
theorem test_prgW : (afterWrite 0x8000#16 0x06#8 { start with cart := banked }).map (fun s => (s.chrBank,
    s.vramRead 0x0010)) =
    some (2, 0xB2#8) := by decide

/-- Q9: another mapper ignores the write. -/
theorem test_prgW_unknown : afterWrite 0x8000#16 0x06#8 { start with cart := { banked with mapperId := 0#8 } } =
    some { start with cart := { banked with mapperId := 0#8 } } := by decide

/-- The set-up of vector Y8 in the CHR bytes of 2.4: tile 3, which entry 0 shows on scanlines 1 to 8. -/
def spriteScene : State :=
  { start with
    mask := 0x10#8
    scanline := 8#9
    cart := { Cartridge.blank with data := [(0x4030, 0x81#8), (0x4037, 0xFF#8), (0x4038, 0x01#8)] }
    oam := [(1, 3#8), (2, 0x80#8), (3, 0x40#8)] }

/-- Y8 on scanline 8, and the step's own effects. -/
theorem test_seqActive_sprite : (next (idle spriteScene)).map
    (fun s => ([64, 65, 70, 71].map (fun x => (s.pixel 8 x).toNat), s.scanline, s.trace)) =
      some ([1, 0, 0, 3], 9#9, [.executeCycles 113]) := by decide +kernel

/-- The set-up "G" of 2.4, as far as row 8's first columns need it. -/
def backgroundScene : State :=
  { start with
    mask := 0x08#8
    scanline := 8#9
    cart := { Cartridge.blank with data := [(0x4010, 0xC0#8), (0x4018, 0x80#8)] }
    nt := [(0x020, 1#8), (0x022, 1#8), (0x3C0, 0x0D#8)] }

/-- X1, row K. -/
theorem test_seqActive_background : (next (idle backgroundScene)).map
    (fun s => [0, 1, 2, 15, 16, 17, 18, 31, 32].map (fun x => (s.pixel 8 x).toNat)) =
      some [7, 5, 4, 4, 15, 13, 12, 12, 0] := by decide +kernel

/-- F3: the frame is presented, then the flag set, then the NMI requested. -/
theorem test_seqPostrender : next (idle { start with scanline := 240#9, ctrl := 0x80#8, answers := [.carryOn] }) =
    some { start with
      scanline := 241#9, ctrl := 0x80#8, status := 0x80#8,
      trace := [.raiseNmi, .presentFrame [] Config.masterRgb, .executeCycles 113] } := rfl

/-- F6: the host closes. -/
theorem test_seqPostrender_close : next (idle { start with scanline := 240#9, ctrl := 0x80#8, answers := [.close] }) =
    some { start with
      scanline := 240#9, ctrl := 0x80#8, halted := true,
      trace := [.presentFrame [] Config.masterRgb, .executeCycles 113] } := rfl

/-- F5: the frame boundary clears the flag. -/
theorem test_seqVblank_wraps : next (idle { start with scanline := 260#9, status := 0x80#8, ctrl := 0x80#8 }) =
    some { start with ctrl := 0x80#8, trace := [.executeCycles 113] } := by decide

/-- F4's first step: no further NMI. -/
theorem test_seqVblank_advances : next (idle { start with scanline := 241#9, status := 0x80#8, ctrl := 0x80#8 }) =
    some { start with scanline := 242#9, status := 0x80#8, ctrl := 0x80#8, trace := [.executeCycles 113] } := by decide

/-! ## Shared operations -/

/-- The table of worked values under R52. -/
theorem test_ntMap :
    [0x2000, 0x23FF, 0x2400, 0x2800, 0x2C00, 0x2FFF, 0x3000, 0x3400, 0x3EFF].map (ntMap .horizontal) =
      [0x000, 0x3FF, 0x000, 0x400, 0x400, 0x7FF, 0x000, 0x000, 0x6FF] ∧
    [0x2000, 0x23FF, 0x2400, 0x2800, 0x2C00, 0x2FFF, 0x3000, 0x3400, 0x3EFF].map (ntMap .vertical) =
      [0x000, 0x3FF, 0x400, 0x000, 0x400, 0x7FF, 0x000, 0x400, 0x6FF] := by decide

/-- S7: the tile row `lo` = 0x80, `hi` = 0, palette 1. -/
theorem test_drawTile : [0, 1, 7].map (fun x => (drawTile 0 0 1#2 0#8 0x80#8 []).read (fbIndex 0 x)) =
    [5#8, 4#8, 4#8] := by decide

/-- S8: a priority-set sprite over 5 and over 0. -/
theorem test_spritePriority : [[(0, 5#8)], []].map (fun fb => (drawSpritePixel 0 0x21#8 0 3#2 fb).read 0) =
    [5#8, 7#8] := by decide

/-- The quadrant table of 2.4, for the attribute byte 0xE4. -/
theorem test_attrField : [(0, 0), (1, 2), (2, 1), (3, 3)].map (fun rc => attrField 0xE4#8 (quadrant rc.1 rc.2)) =
    [0#2, 1#2, 2#2, 3#2] := by decide

/-- Z4 and Z7: rows 8 and 15 of a 16-high sprite. -/
theorem test_spritePatternAddr :
    { start with ctrl := 0x20#8, oam := [(0, 9#8), (1, 3#8)] }.spritePatternAddr 18 0 = 0x1028 ∧
    { start with ctrl := 0x20#8, oam := [(0, 9#8), (1, 3#8), (2, 0x80#8)] }.spritePatternAddr 10 0 = 0x102F := by decide

/-- The `ColourCode` line of 2.4. -/
theorem test_colourCode : { start with fb := [(0, 5#8)], pal := [(5, 0xE7#8)] }.colourCode 0 0 = 0x27#6 := by decide

/-- Q1, Q3, Q4: the header fields. -/
theorem test_header :
    (fun h => (headerPrgSize h, headerChrSize h, headerMirroring h, headerMapperId h))
      [0x4E#8, 0x45#8, 0x53#8, 0x1A#8, 2#8, 4#8, 0x31#8, 0#8] = (32768, 32768, .vertical, 3#8) ∧
    headerMapperId [0#8, 0#8, 0#8, 0#8, 0#8, 0#8, 0x21#8, 0x40#8] = 0x42#8 ∧
    headerMapperId [0#8, 0#8, 0#8, 0#8, 0#8, 0#8, 0xF0#8, 0x0F#8] = 0x0F#8 := by decide

/-- Q5 and Q6: a wrong signature and a file without CHR are refused by name. -/
theorem test_load_refuses :
    loadCartridge (some [0x4E#8, 0x45#8, 0x53#8, 0#8]) = .error .invalidMagic ∧
    loadCartridge (some [0x4E#8, 0x45#8, 0x53#8, 0x1A#8, 1#8, 0#8]) = .error .badGeometry ∧
    loadCartridge none = .error .unreadableFile := by decide

/-- `withFetchWord` puts the word where the next step takes it: a transaction, and each sequencer step. -/
theorem test_withFetchWord :
    (next (start.withFetchWord 24 0x12003)).map (fun s => (s.trace, s.oamAddr)) = some ([], 0#8) ∧
    (next (start.withFetchWord 24 0x02002)).map (·.trace) = some [.returned 0#8] ∧
    fetch (start.withFetchWord 8 0) = some (.seqActive, start) ∧
    fetch (start.withFetchWord 8 1) = some (.seqPostrender, { start with scanline := 240#9 }) ∧
    fetch (start.withFetchWord 8 2) = some (.seqVblank, { start with scanline := 241#9 }) := by decide

/-- Storing what an unlisted cell reads as removes the pair. -/
theorem test_memory_canonical : Memory.write (Memory.write [] 3 5#8) 3 0#8 = [] ∧
    Memory.write [(2, 1#8), (7, 1#8)] 4 9#8 = [(2, 1#8), (4, 9#8), (7, 1#8)] := by decide
/-! ## Witnesses: a state and operands that meet the hypotheses of each statement that has some -/

/-- A legal state that is not the reset one: vblank, every memory and register in use. -/
def busy : State :=
  { State.reset with
    ctrl := 0x80#8
    mask := 0x18#8
    status := 0x80#8
    scanline := 250#9
    chrBank := 2
    nt := [(5, 1#8)]
    oam := [(255, 2#8)]
    pal := [(63, 3#8)]
    fb := [(61439, 15#8)]
    ram := [(2047, 4#8)]
    cart := banked
    budgets := [[.read 0x2002#16]] }

theorem busy_legal : busy.Inv where
  cart := by constructor <;> decide
  cycles := by decide
  chrBank := by decide
  unknownMapper := fun h => absurd rfl h
  status := .inr rfl
  scanline := by decide
  vblankOnly := fun h => absurd h (by decide)
  halted := nofun
  pixels := by decide
  nt := by constructor <;> decide
  oam := by constructor <;> decide
  pal := by constructor <;> decide
  fb := by constructor <;> decide
  ram := by constructor <;> decide

theorem witness_DecodeOfEncodeIsTheOperation :
    (Instr.openW 0x4015#16 0xA5#8).wellFormed = true ∧ (Instr.ramR 0x1FFF#16).wellFormed = true ∧
    (Instr.prgW 0x8000#16 0xFF#8).wellFormed = true := by decide

theorem witness_StepPerformsThePresentedTransaction :
    { start with pending := [.read 0x2002#16, .write 0x8000#16 1#8] }.pending =
      .read 0x2002#16 :: [.write 0x8000#16 1#8] := rfl

/-- Each clause at the ends of its range: 0, 239, 240, 241, 260, and a run that is over. -/
theorem witness_StepIsTheSequencerStepOfItsScanline :
    (∀ n ∈ [0#9, 239#9], { start with scanline := n }.pending = [] ∧ { start with scanline := n }.halted = false ∧
      { start with scanline := n }.scanline.toNat ≤ 239) ∧
    { start with scanline := 240#9 }.scanline.toNat = 240 ∧
    (∀ n ∈ [241#9, 260#9], 241 ≤ { start with scanline := n }.scanline.toNat ∧
      { start with scanline := n }.scanline.toNat ≤ 260) ∧
    { start with halted := true, scanline := 240#9 }.halted = true := by decide

theorem witness_EveryStepKeepsTheLegalStates : ∃ t, busy.Inv ∧ step busy = .next t := ⟨_, busy_legal, rfl⟩

/-- The file of vector Q2, all its bytes after the header zero. -/
def smallFile : List Byte :=
  [0x4E#8, 0x45#8, 0x53#8, 0x1A#8, 1#8, 1#8, 0#8, 0#8, 0#8, 0#8, 0#8, 0#8, 0#8, 0#8, 0#8,
   0#8] ++ List.replicate 24576 0#8

theorem smallFile_load : loadCartridge (some smallFile) = .ok (cartridgeOf smallFile) := by
  have h : goodGeometry smallFile = true := by
    simp [goodGeometry, headerPrgSize, headerChrSize, fileByte, smallFile, -List.reduceReplicate]
  have m : smallFile.take 4 = magic := rfl
  simp only [loadCartridge, m, h, ne_eq, not_true_eq_false, if_false, if_true]

theorem witness_ABootedMachineIsLegal :
    ∃ s, 1 ≤ Params.default.cyclesPerScanline ∧ boot (some smallFile) Params.default = .ok s :=
  ⟨State.resetWith (cartridgeOf smallFile) Params.default, by decide, by simp only [boot, smallFile_load]⟩

theorem witness_RamMirrorsAreTheSameCells : ∃ t, (0x0005#16 : Addr).toNat < 0x2000 ∧ (0x1FFF#16 : Addr).toNat < 0x2000 ∧
    exec (.ramW 0x0005#16 0xAB#8) start = .next t := ⟨_, by decide, by decide, rfl⟩

/-- Both clauses, and a host that gives an answer. -/
theorem witness_ControllerStrobeLatchesTheButtons :
    ((0#8 : Byte) = 0#8) ∧ ((2#8 : Byte) ≠ 0#8) ∧
    { start with buttons := [⟨true, false, false, true, false, false, false, false⟩] }.buttons.head? =
      some ⟨true, false, false, true, false, false, false, false⟩ := by decide

theorem witness_EightControllerReadsReturnTheButtonsInOrder :
    let b : Buttons := ⟨true, false, false, true, false, false, false, false⟩
    let s : State :=
      { start with joyShift := 0x09#8, pending :=
      List.replicate 8 (BusTxn.read 0x4016#16) ++ [BusTxn.write 0x2000#16 0#8] }
    s.joyShift = buttonsByte b ∧
      s.pending = List.replicate 8 (BusTxn.read 0x4016#16) ++ [BusTxn.write 0x2000#16 0#8] := by decide

theorem witness_PrgReadReturnsTheRomByte : 0x8000 ≤ (0x8000#16 : Addr).toNat ∧ 0x8000 ≤ (0xFFFF#16 : Addr).toNat :=
    by decide

theorem witness_PrgWriteSelectsTheBankByValue : busy.cart.mapperId = busy.params.bankselMapperId ∧ 0x1FFF < 0x2000 :=
    by decide

theorem witness_UnknownMapperNeverSwitchesBanks :
    State.reset.cart.mapperId ≠ State.reset.params.bankselMapperId ∧
    ∃ t, step { State.reset with pending := [.write 0x8000#16 6#8] } = .next t := ⟨by decide, _, rfl⟩

theorem witness_PortsWithoutADirectionChangeNothing :
    Instr.addrR 0x2006#16 ∈ [Instr.ctrlR 0x2006#16, .maskR 0x2006#16, .oamaddrR 0x2006#16, .scrollR 0x2006#16,
    .addrR 0x2006#16] := by
  decide

/-- Two bytes with the same two flags, and one with neither. -/
theorem witness_MaskWriteSetsTheVisibleFlags : (0xFF#8 : Byte).getLsbD 3 = (0x18#8 : Byte).getLsbD 3 ∧
    (0xFF#8 : Byte).getLsbD 4 = (0x18#8 : Byte).getLsbD 4 ∧ (0xE7#8 : Byte).getLsbD 3 = false ∧
    (0xE7#8 : Byte).getLsbD 4 = false := by decide

theorem witness_ScrollWritesAlternate : ∃ t u w, start.wLatch = false ∧ exec (.scrollW 0x2005#16 0x0A#8) start =
    .next t ∧
    exec (.scrollW 0x2005#16 0x14#8) t = .next u ∧ exec (.scrollW 0x3FFD#16 0x05#8) u = .next w :=
  ⟨_, _, _, rfl, rfl, rfl, rfl⟩

theorem witness_AddressWritesSetTheirHalf : start.wLatch = false ∧ { start with wLatch := true }.wLatch = true := by
    decide

/-- Both sides of the palette's first address. -/
theorem witness_DataReadIsBufferedBelowThePalette :
    { start with vramAddr := 0x3EFF#14 }.vramAddr.toNat < 0x3F00 ∧
    0x3F00 ≤ { start with vramAddr := 0x3F00#14 }.vramAddr.toNat ∧
    0x3F00 ≤ { start with vramAddr := 0x3FFF#14 }.vramAddr.toNat := by decide

theorem witness_DataReadLagsByOneCall : ∃ t u, ({ start with vramAddr := 0x3EFE#14 } : State).vramAddr.toNat < 0x3F00 ∧
    exec (.dataR 0x2007#16) { start with vramAddr := 0x3EFE#14 } = .next t ∧ t.vramAddr.toNat < 0x3F00 ∧
    exec (.dataR 0x2007#16) t = .next u := ⟨_, _, by decide, rfl, by decide, rfl⟩

theorem witness_DataPortAccessAdvancesByTheStep :
    (∃ t, Instr.dataW 0x2007#16 1#8 ∈ [Instr.dataR 0x2007#16, .dataW 0x2007#16 1#8] ∧
      exec (.dataW 0x2007#16 1#8) { start with vramAddr := 0x3FFF#14, ctrl := 0x04#8 } = .next t) ∧
    ∃ t, (Instr.statusR 0x2002#16).isBus = true ∧ exec (.statusR 0x2002#16) start = .next t :=
  ⟨⟨_, by decide, rfl⟩, _, rfl, rfl⟩

theorem witness_TheWriteLatchIsSharedByTwoPorts :
    (∃ t u, start.wLatch = false ∧ exec (.scrollW 0x2005#16 0x0A#8) start = .next t ∧
      exec (.addrW 0x2006#16 0x34#8) t = .next u) ∧
    ∃ t, (idle start).budgets.head? = some [] ∧ exec .seqActive (idle start) = .next t :=
  ⟨⟨_, _, rfl, rfl, rfl⟩, _, rfl, rfl⟩

theorem witness_OnlyThreeReadsHaveSideEffects : ∃ t u v w, exec (.prgR 0x8000#16) start = .next t ∧
    exec (.statusR 0x2002#16) start = .next u ∧ exec (.dataR 0x2007#16) start = .next v ∧ exec .joy1R start = .next w :=
  ⟨_, _, _, _, rfl, rfl, rfl, rfl⟩

theorem witness_TheBusCannotReachTheSequencerState : ∃ t, (Instr.ctrlW 0x2000#16 0x80#8).isBus = true ∧
    exec (.ctrlW 0x2000#16 0x80#8) { start with status := 0x80#8 } = .next t ∧ t.status.getLsbD 7 = true :=
  ⟨_, rfl, rfl, by decide⟩

theorem witness_NoStepChangesTheCartridge : ∃ t, step busy = .next t := ⟨_, rfl⟩

/-- A case with the edge: NMI-enable turned on during vblank. -/
theorem witness_ABusOperationRequestsNmiOnTheRisingEdge : ∃ t, (Instr.ctrlW 0x2000#16 0x80#8).isBus = true ∧
    exec (.ctrlW 0x2000#16 0x80#8) { start with status := 0x80#8 } = .next t ∧ t.nmiCount = 1 :=
  ⟨_, rfl, rfl, by decide⟩

theorem witness_OnlyPostRenderSetsTheVblankFlag :
    let s := idle { start with scanline := 240#9, answers := [.carryOn] }
    ∃ t, step s = .next t ∧ s.status.getLsbD 7 = false ∧ t.status.getLsbD 7 = true := ⟨_, rfl, by decide, by decide⟩

theorem witness_OnlyTheRenderedRowChanges : ∃ t, step (idle backgroundScene) = .next t ∧
    t.pixel 8 0 ≠ (idle backgroundScene).pixel 8 0 := ⟨_, rfl, by decide +kernel⟩

theorem witness_ActiveStepRendersRunsAdvances :
    { start with scanline := 239#9 }.scanline.toNat ≤ 239 ∧ busy.budgets.head? = some [.read 0x2002#16] := by decide

/-- Both answers, and a budget the input data gives. -/
theorem witness_PostRenderStepPresentsThenEntersVblank :
    { start with answers := [.close] }.answers.head? = some .close ∧
    { start with answers := [.carryOn] }.answers.head? = some .carryOn ∧ (idle start).budgets.head? = some [] := by
    decide

theorem witness_VblankStepRunsThenAdvancesOrWraps :
    (∀ n ∈ [241#9, 259#9], 241 ≤ { start with scanline := n }.scanline.toNat ∧
      { start with scanline := n }.scanline.toNat ≠ 260) ∧ { start with scanline := 260#9 }.scanline.toNat = 260 ∧
    busy.budgets.head? = some [.read 0x2002#16] := by decide

theorem witness_TheBudgetDoesNotReachTheRenderedRow : ∃ t u, { start with scanline := 239#9 }.scanline.toNat ≤ 239 ∧
    exec .seqActive { start with scanline := 239#9, budgets := [.write 0x2001#16 0x08#8] :: [] } = .next t ∧
    exec .seqActive { start with scanline := 239#9, budgets := [] :: [[.read 0x2002#16]] } = .next u :=
  ⟨_, _, by decide, rfl, rfl⟩

theorem witness_AFrameIs261Steps :
    let s := { start with answers := [.carryOn] }
    s.pending = [] ∧ s.halted = false ∧ s.scanline = 0#9 ∧ s.answers.head? = some .carryOn := by decide

theorem witness_BackgroundPixelsAreTheTilesUnderTheScroll :
    backgroundScene.scanline.toNat ≤ 239 ∧ 255 < 256 ∧ backgroundScene.mask.getLsbD 3 = true ∧
    backgroundScene.mask.getLsbD 4 = false := by decide

theorem witness_RasterPassesComposeEachPixel :
    { start with mask := 0x18#8, scanline := 239#9 }.scanline.toNat ≤ 239 ∧ 255 < 256 := by decide

/-- An active entry of each height. -/
theorem witness_SpritePatternAddressFollowsItsHeight :
    (spriteScene.spriteActive 8 0 = true ∧ spriteScene.ctrl.getLsbD 5 = false) ∧
    ({ spriteScene with ctrl := 0x20#8 }.spriteActive 16 0 = true ∧
      { spriteScene with ctrl := 0x20#8 }.ctrl.getLsbD 5 = true) := by decide

/-- Operands on both sides of the boundaries at 0x2000 and 0x3F00. -/
theorem witness_VramReadAfterVramWrite : ∀ a ∈ [0x0000, 0x1FFF, 0x2000, 0x3EFF, 0x3F00, 0x3FFF], a < 0x4000 := by decide

theorem witness_PaletteEntriesAreSeparateCells : 0x3F00 ≤ 0x3F00 ∧ 0x3F00 ≤ 0x3FFF ∧ 0x3F00 ≤ 0x3F10 ∧
    0x3F10 ≤ 0x3FFF := by decide

theorem witness_LoaderDerivesTheSizesFromTheHeader : loadCartridge (some smallFile) = .ok (cartridgeOf smallFile) :=
  smallFile_load

theorem witness_LoaderDerivesMirroringAndMapper : loadCartridge (some smallFile) = .ok (cartridgeOf smallFile) :=
  smallFile_load

/-- A file the loader admits, and one with another signature. -/
theorem witness_LoaderAdmitsExactlyTheWellFormedFiles :
    (∃ c, loadCartridge (some smallFile) = .ok c) ∧
    ([0x4E#8, 0x45#8, 0x53#8, 0#8] : List Byte).take 4 ≠ [0x4E#8, 0x45#8, 0x53#8, 0x1A#8] :=
  ⟨⟨_, smallFile_load⟩, by decide⟩

theorem witness_OutputColourIsThePaletteEntryOfThePixel : busy.Inv := busy_legal

end Sys2Proof.Tests
end

section
/-! A budget against single steps (00_scope.md R6, 20_memory.md R42): a presented transaction costs one step, and what
waits behind it is no input of its effect. -/
namespace Sys2Proof.Machine

/-- With `x` presented first, a step has the effect of `x` on the state alone; the rest of the queue only waits. -/
theorem step_of_presented (x : BusTxn) (rest : List BusTxn) (s : State) :
    step { s with pending := x :: rest } = .next { busTransaction s x with pending := rest } :=
  (step_pending _ x rest rfl).trans (congrArg _ (busEffect_setPending (decodeBus x) s rest))

/-- Settles O46, by induction on the queue: the first step performs its first transaction, and the hypothesis for the
state after that transaction performs the rest. -/
theorem aBudgetIsItsTransactionsInTurn : Obligations.ABudgetIsItsTransactionsInTurn := by
  intro xs
  induction xs with
  | nil => exact fun s => rfl
  | cons x xs ih =>
    intro s
    calc Host.Core.run Sys2Proof.core (xs.length + 1) { s with pending := x :: xs }
        = Host.Core.run Sys2Proof.core xs.length { busTransaction s x with pending := xs } :=
          run_step _ (step_of_presented x xs s)
      _ = .next { runBudget xs (busTransaction s x) with pending := [] } := ih (busTransaction s x)
      _ = .next { runBudget (x :: xs) s with pending := [] } := by rw [runBudget_cons]

end Sys2Proof.Machine
end

section
/-! The invariant of every reachable state (10_state.md R34) through the bus: what a bus operation writes stays inside the
memories' sizes, `status` can only lose its flag, and a PRG write selects a bank below `bank_count` under the known mapper
alone. Each field of the invariant that an operation does not write is passed on by `{ h with … }`. -/
namespace Sys2Proof.Machine

theorem ramIndex_lt (a : Addr) : ramIndex a < 2048 := Nat.mod_lt _ (by decide)

/-- `status` is 0x00 or 0x80 in a legal state, so the clear leaves no bit (R14, R114). -/
theorem State.Inv.status_and_7F {s : State} (h : s.Inv) : s.status &&& 0x7F#8 = 0#8 := by
  rcases h.status with e | e <;> rw [e] <;> rfl

/-- `status` is 0x00 or 0x80 in a legal state, so the vblank entry leaves 0x80 (R14, R178). -/
theorem State.Inv.status_or_80 {s : State} (h : s.Inv) : s.status ||| 0x80#8 = 0x80#8 := by
  rcases h.status with e | e <;> rw [e] <;> rfl

theorem State.Inv.clearVblank {s : State} (h : s.Inv) : s.clearVblank.Inv :=
  { h with status := .inl h.status_and_7F, vblankOnly := fun _ => h.status_and_7F }

theorem State.Inv.withOam {s : State} (h : s.Inv) {oam : Memory} (sized : oam.Sized 256) :
    State.Inv { s with oam := oam } :=
  { h with oam := sized }

theorem State.Inv.vramWrite {s : State} (h : s.Inv) (a : Nat) (v : Byte) : (s.vramWrite a v).Inv := by
  unfold State.vramWrite
  dsimp only
  split
  · exact h
  · split
    · exact { h with nt := h.nt.write _ v (ntMap_lt _ _) }
    · exact { h with pal := h.pal.write _ v (Nat.mod_lt _ (by decide)) }

theorem State.Inv.onPrgWrite {s : State} (h : s.Inv) (a : Addr) (v : Byte) : (onPrgWrite a v s).Inv := by
  unfold Machine.onPrgWrite
  split
  · rename_i known
    exact { h with
      chrBank := Nat.mod_lt _ h.cart.chr_some
      unknownMapper := fun unknown => absurd known unknown }
  · exact h

theorem State.Inv.pollButtons {s : State} (h : s.Inv) : s.pollButtons.2.Inv := by
  rw [State.pollButtons_snd]
  exact { h with }

/-- Every bus operation keeps the invariant. -/
theorem State.Inv.busEffect {s : State} (h : s.Inv) (i : Instr) : (busEffect i s).Inv := by
  cases i with
  | ramW a v => exact { h with ram := h.ram.write _ v (ramIndex_lt a) }
  | oamdataW a v => exact { h.withOam (h.oam.write _ v s.oamAddr.isLt) with }
  | oamdmaW v => exact h.withOam (h.oam.fill 256 _ (Nat.le_refl 256))
  | dataW a v => exact { h.vramWrite s.vramAddr.toNat v with }
  | statusR a => exact { h.clearVblank with }
  | prgW a v => exact h.onPrgWrite a v
  | joy1W v =>
    simp only [Machine.busEffect, joy1W]
    split
    · exact h
    · exact { h.pollButtons with }
  | ctrlW a v | scrollW a v | addrW a v =>
    simp only [Machine.busEffect, ctrlW, scrollW, addrW]
    split <;> exact { h with }
  | dataR a =>
    simp only [Machine.busEffect, dataR]
    split <;> exact { h with }
  | _ => exact { h with }

/-- A call of the CPU engine keeps the invariant, whatever it presents (R6). -/
theorem State.Inv.executeCycles {s : State} (h : s.Inv) : (executeCycles s).Inv := by
  unfold Machine.executeCycles
  refine runBudget_keeps State.Inv (fun i _ ht => ht.busEffect i) _ _ ?_
  rw [State.takeBudget_snd]
  exact { h with }

end Sys2Proof.Machine
end

section
/-! The invariant through the sequencer and through a whole step. -/
namespace Sys2Proof.Machine

/-- A frame buffer of the right size with 4-bit pixels: R34's part about `FB`. -/
def FrameLegal (fb : Memory) : Prop := fb.Sized 61440 ∧ fb.all (fun c => c.2.toNat ≤ 15) = true

theorem FrameLegal.write {fb : Memory} (h : FrameLegal fb) {line x : Nat} (hl : line < 240) (hx : x < 256)
    (p c : BitVec 2) : FrameLegal (fb.write (fbIndex line x) (pixelValue p c)) :=
  ⟨h.1.write _ _ (fbIndex_lt hl hx), Memory.all_write _ fb _ _ h.2 (decide_eq_true (pixelValue_le p c))⟩

theorem State.Inv.renderScanline {s : State} (h : s.Inv) {line : Nat} (hl : line < 240) :
    (renderScanline line s).Inv :=
  have hfb : FrameLegal (s.rendered line) :=
    State.rendered_keeps FrameLegal s line (fun _ _ p c hx hf => hf.write hl hx p c) ⟨h.fb, h.pixels⟩
  { h with fb := hfb.1, pixels := hfb.2 }

theorem State.Inv.presentFrame {s : State} (h : s.Inv) : s.presentFrame.2.Inv := by
  rw [State.presentFrame_snd]
  exact { h with }

/-- The scanline counter has room to advance from every scanline of a frame. -/
theorem scanline_succ_toNat {n : BitVec 9} (h : n.toNat ≤ 260) : (n + 1#9).toNat = n.toNat + 1 := by
  bv_omega

/-- SEQ.ACTIVE stays at or below 240, where the flag is still 0 (R176). -/
theorem State.Inv.seqActive {s : State} (h : s.Inv) (running : s.halted = false) (hl : s.scanline.toNat ≤ 239) :
    (seqActive s).Inv :=
  have ht : (Machine.executeCycles (Machine.renderScanline s.scanline.toNat s)).Inv :=
    (h.renderScanline (by omega)).executeCycles
  have hs : (s.scanline + 1#9).toNat = s.scanline.toNat + 1 := scanline_succ_toNat h.scanline
  { ht with
    scanline := by simp only [seqActive_scanline, hs]; omega
    vblankOnly := fun _ => ht.vblankOnly (by simp only [executeCycles_scanline, renderScanline_scanline]; omega)
    halted := fun halted => by simp [Machine.seqActive, running] at halted }

/-- The vblank entry sets the flag and leaves the scanlines on which it is 0 (R177, R178). -/
theorem State.Inv.enterVblank {s : State} (h : s.Inv) (running : s.halted = false) :
    State.Inv { enterVblank s with scanline := 241#9 } := by
  rw [enterVblank_eq]
  exact { h with
    scanline := by simp
    status := .inr h.status_or_80
    vblankOnly := fun early => absurd early (by simp)
    halted := fun ended => absurd (running.symm.trans ended) Bool.false_ne_true }

/-- SEQ.POSTRENDER ends the run where it stands, at 240, or enters the vblank (R177, R182). -/
theorem State.Inv.seqPostrender {s : State} (h : s.Inv) (running : s.halted = false)
    (hl : s.scanline.toNat = 240) : (seqPostrender s).Inv := by
  have ht : (Machine.executeCycles s).presentFrame.2.Inv := h.executeCycles.presentFrame
  unfold Machine.seqPostrender
  dsimp only
  split
  · exact { ht with halted := fun _ => by simp [State.presentFrame_snd, hl] }
  · exact ht.enterVblank (by simp [State.presentFrame_snd, running])

/-- SEQ.VBLANK goes on to at most 260, or clears the flag and starts the next frame (R179, R180). -/
theorem State.Inv.seqVblank {s : State} (h : s.Inv) (running : s.halted = false) (hl : 241 ≤ s.scanline.toNat) :
    (seqVblank s).Inv := by
  have ht : (Machine.executeCycles s).Inv := h.executeCycles
  have unended : (Machine.executeCycles s).halted ≠ true := by simp [running]
  unfold Machine.seqVblank
  dsimp only
  split
  · exact { ht.clearVblank with
      scanline := by simp
      vblankOnly := fun _ => ht.status_and_7F
      halted := fun halted => absurd halted unended }
  · rename_i notLast
    have hs : (s.scanline + 1#9).toNat = s.scanline.toNat + 1 := scanline_succ_toNat h.scanline
    have last : s.scanline.toNat ≠ 260 := fun e => notLast (BitVec.eq_of_toNat_eq e)
    have bound : s.scanline.toNat ≤ 260 := h.scanline
    exact { ht with
      scanline := by simp only [hs]; omega
      vblankOnly := fun early => by simp only [hs] at early; omega
      halted := fun halted => absurd halted unended }

/-- Settles O8: a step is a bus operation, nothing, or a step of the sequencer, and each keeps the invariant. -/
theorem everyStepKeepsTheLegalStates : Obligations.EveryStepKeepsTheLegalStates := by
  intro s t h hstep
  obtain ⟨x, rest, -, rfl⟩ | ⟨-, -, rfl⟩ | ⟨-, running, hl, rfl⟩ | ⟨-, running, hl, rfl⟩ | ⟨-, running, hl, rfl⟩ :=
    step_cases hstep
  · have taken : State.Inv { s with pending := rest } := { h with }
    exact taken.busEffect _
  · exact h
  · exact h.seqActive running hl
  · exact h.seqPostrender running hl
  · exact h.seqVblank running hl

end Sys2Proof.Machine
end

section
/-! What no step writes: the cartridge and the parameters (10_state.md R28, 00_scope.md R4). -/
namespace Sys2Proof.Machine

@[simp] theorem seqActive_params (s : State) : (seqActive s).params = s.params := by simp [seqActive]

@[simp] theorem seqPostrender_params (s : State) : (seqPostrender s).params = s.params := by simp [seqPostrender_eq]

@[simp] theorem seqVblank_params (s : State) : (seqVblank s).params = s.params := by simp [seqVblank_eq]

/-- Settles O39: neither a bus operation nor a step of the sequencer writes them. -/
theorem noStepChangesTheCartridge : Obligations.NoStepChangesTheCartridge := by
  intro s t hstep
  obtain ⟨x, rest, -, rfl⟩ | ⟨-, -, rfl⟩ | ⟨-, -, -, rfl⟩ | ⟨-, -, -, rfl⟩ | ⟨-, -, -, rfl⟩ := step_cases hstep
  · exact ⟨busEffect_cart _ _, busEffect_params _ _⟩
  · exact ⟨rfl, rfl⟩
  · exact ⟨seqActive_cart s, seqActive_params s⟩
  · exact ⟨seqPostrender_cart s, seqPostrender_params s⟩
  · exact ⟨seqVblank_cart s, seqVblank_params s⟩

end Sys2Proof.Machine
end

section
/-! The reset state and RESET (10_state.md R33, 70_reset_and_hazards.md R215). -/
namespace Sys2Proof.Machine

theorem Cartridge.blank_legal : Cartridge.blank.Legal where
  prg_units := rfl
  prg_some := Nat.le_refl 16384
  chr_units := rfl
  chr_some := Nat.le_refl 1
  data_wf := rfl
  data_below := rfl

/-- Every register and memory byte zero is legal with every admitted cartridge and positive budget (R33, R34). -/
theorem State.resetWith_legal {c : Cartridge} {p : Params} (hc : c.Legal) (hp : 1 ≤ p.cyclesPerScanline) :
    (State.resetWith c p).Inv where
  cart := hc
  cycles := hp
  chrBank := hc.chr_some
  unknownMapper := fun _ => rfl
  status := .inl rfl
  scanline := Nat.zero_le 260
  vblankOnly := fun _ => rfl
  halted := nofun
  pixels := rfl
  nt := Memory.sized_nil 2048
  oam := Memory.sized_nil 256
  pal := Memory.sized_nil 64
  fb := Memory.sized_nil 61440
  ram := Memory.sized_nil 2048

/-- Settles O9: the blank cartridge is an admitted one and the default budget is positive. -/
theorem theResetStateIsLegal : Obligations.TheResetStateIsLegal :=
  State.resetWith_legal Cartridge.blank_legal (by decide)

/-- Settles O11: the registers are reset's, and a byte no pair lists reads as 0. -/
theorem resetSetsEveryRegisterAndByte : Obligations.ResetSetsEveryRegisterAndByte := by
  intro s
  refine ⟨resetMachine s, rfl, ?registers, ?pixels, ?memories, rfl, rfl, rfl⟩
  case registers => exact ⟨rfl, rfl, rfl, rfl, rfl, rfl, rfl, rfl, rfl, rfl, rfl, rfl, rfl⟩
  case pixels => exact fun y x => Memory.read_nil (fbIndex y x)
  case memories =>
    exact fun k => ⟨Memory.read_nil k, Memory.read_nil k, Memory.read_nil k, Memory.read_nil k⟩

end Sys2Proof.Machine
end

section
/-! The address maps (20_memory.md): a transaction's path to the RAM cells (R42, R43), and the video address space (R47 to
R52) by its three regions, each of which reads and writes through one fold. -/
namespace Sys2Proof.Machine

/-- Settles O5: the fetch takes the head of the queue, and the step runs what it decodes to. -/
theorem stepPerformsThePresentedTransaction : Obligations.StepPerformsThePresentedTransaction := by
  intro s x rest presented
  have fetched : fetch s = some (decodeBus x, { s with pending := rest }) := by unfold fetch; rw [presented]
  unfold step
  rw [fetched]

/-- A RAM cell after a RAM write, by the two folded addresses (R43, R92). -/
theorem ramW_ram_read (a b : Addr) (v : Byte) (s : State) :
    (ramW a v s).ram.read (ramIndex b) =
      if ramIndex a = ramIndex b then v else s.ram.read (ramIndex b) := by
  simp only [ramW, Memory.read_write, eq_comm]

/-- Settles O14: both accesses go through the same fold modulo 2048. -/
theorem ramMirrorsAreTheSameCells : Obligations.RamMirrorsAreTheSameCells := by
  intro a b v s t _ _ written
  cases written
  exact congrArg (fun r => Host.Outcome.next ((ramW a v s).answer r)) (ramW_ram_read a b v s)

/-- Settles O55: a mask of `k` ones is the remainder modulo `2 ^ k`, and the two operands of the horizontal fold's `|||`
share no bit, so it is a sum. -/
theorem nametableFoldIsTheSpecsFormula : Obligations.NametableFoldIsTheSpecsFormula := by
  intro a
  have mask10 (n : Nat) : n &&& 0x3FF = n % 0x400 := Nat.and_two_pow_sub_one_eq_mod n 10
  have mask11 (n : Nat) : n &&& 0x7FF = n % 0x800 := Nat.and_two_pow_sub_one_eq_mod n 11
  have mask12 (n : Nat) : n &&& 0x0FFF = n % 0x1000 := Nat.and_two_pow_sub_one_eq_mod n 12
  refine ⟨?vertical, ?horizontal, ntMap_lt _ a, ntMap_lt _ a⟩
  case vertical => rw [mask12, mask11]; rfl
  case horizontal =>
    have low : (a - 0x2000) % 0x1000 % 0x400 < 2 ^ 10 := Nat.mod_lt _ (by decide)
    rw [mask12, mask10, shiftLeft_or_of_lt low, Nat.shiftRight_eq_div_pow]
    rfl

/-- `VramRead` in the pattern tables (R47, R50). -/
theorem State.vramRead_pattern (s : State) {a : Nat} (h : a < 0x2000) :
    s.vramRead a = s.cart.data.read (s.chrBase + a) := by
  unfold State.vramRead
  rw [Nat.mod_eq_of_lt (by omega : a < 0x4000)]
  exact if_pos h

/-- `VramRead` in the nametables (R47, R50). -/
theorem State.vramRead_nametable (s : State) {a : Nat} (h : 0x2000 ≤ a) (h' : a < 0x3F00) :
    s.vramRead a = s.nt.read (ntMap s.cart.mirroring a) := by
  unfold State.vramRead
  rw [Nat.mod_eq_of_lt (by omega : a < 0x4000)]
  exact (if_neg (by omega)).trans (if_pos h')

/-- `VramRead` in the palette, all of 0x3F00-0x3FFF (R47, R49, R50). -/
theorem State.vramRead_palette (s : State) {a : Nat} (h : 0x3F00 ≤ a) (h' : a < 0x4000) :
    s.vramRead a = s.pal.read (a % 64) := by
  unfold State.vramRead
  rw [Nat.mod_eq_of_lt h']
  exact (if_neg (by omega)).trans (if_neg (by omega))

@[simp] theorem State.vramWrite_cart (s : State) (a : Nat) (v : Byte) : (s.vramWrite a v).cart = s.cart := by
  rw [State.vramWrite_eq]

@[simp] theorem State.vramWrite_chrBase (s : State) (a : Nat) (v : Byte) :
    (s.vramWrite a v).chrBase = s.chrBase := by
  rw [State.vramWrite_eq]; rfl

/-- The nametable cells after a `VramWrite` (R51). -/
theorem State.vramWrite_nt_read (s : State) {a : Nat} (h : a < 0x4000) (v : Byte) (k : Nat) :
    (s.vramWrite a v).nt.read k =
      if 0x2000 ≤ a ∧ a < 0x3F00 ∧ ntMap s.cart.mirroring a = k then v else s.nt.read k := by
  rw [State.vramWrite_eq, Nat.mod_eq_of_lt h]
  by_cases nametable : 0x2000 ≤ a ∧ a < 0x3F00
  · simp [nametable, Memory.read_write, eq_comm]
  · simp only [← and_assoc, nametable, if_false, false_and]

/-- The palette cells after a `VramWrite` (R51). -/
theorem State.vramWrite_pal_read (s : State) {a : Nat} (h : a < 0x4000) (v : Byte) (k : Nat) :
    (s.vramWrite a v).pal.read k = if 0x3F00 ≤ a ∧ a % 64 = k then v else s.pal.read k := by
  rw [State.vramWrite_eq, Nat.mod_eq_of_lt h]
  by_cases palette : 0x3F00 ≤ a
  · simp [palette, Memory.read_write, eq_comm]
  · simp only [palette, if_false, false_and]

/-- Settles O56, by the region of the address read: nothing writes the pattern tables, and the nametables and the palette
are read through the fold they are written through. -/
theorem vramReadAfterVramWrite : Obligations.VramReadAfterVramWrite := by
  intro s a b v ha hb
  obtain pattern | nametable | palette : b < 0x2000 ∨ (0x2000 ≤ b ∧ b < 0x3F00) ∨ 0x3F00 ≤ b := by omega
  · rw [State.vramRead_pattern _ pattern, State.vramRead_pattern _ pattern, if_neg (by omega),
      State.vramWrite_cart, State.vramWrite_chrBase]
  · obtain ⟨low, high⟩ := nametable
    rw [State.vramRead_nametable _ low high, State.vramRead_nametable _ low high, State.vramWrite_nt_read _ ha,
      State.vramWrite_cart]
    simp only [low, high, true_and, Nat.not_le.2 high, false_and, and_false, or_false]
  · rw [State.vramRead_palette _ palette hb, State.vramRead_palette _ palette hb, State.vramWrite_pal_read _ ha]
    simp only [palette, true_and, Nat.not_lt.2 palette, false_and, and_false, false_or]

/-- Settles O57: the palette's part of the map and of O56. -/
theorem paletteEntriesAreSeparateCells : Obligations.PaletteEntriesAreSeparateCells := by
  intro s a b v ha ha' hb hb'
  have lower : ¬ a < 0x3F00 := Nat.not_lt.2 ha
  refine ⟨State.vramRead_palette s ha (by omega), ?_⟩
  rw [vramReadAfterVramWrite s a b v (by omega) (by omega)]
  simp only [ha, hb, lower, true_and, false_and, and_false, false_or]

end Sys2Proof.Machine
end

section
/-! What a read changes beside the byte it returns (20_memory.md R58). -/
namespace Sys2Proof.Machine

/-- DATA.R touches the buffer and the address alone (R125). -/
theorem dataR_frame (a : Addr) (s : State) : ∃ v, dataR a s =
    { s with readBuf := (dataR a s).readBuf, vramAddr := (dataR a s).vramAddr, trace := .returned v :: s.trace } := by
  unfold dataR
  split <;> exact ⟨_, rfl⟩

/-- Settles O37: nine reads only answer, and the other three answer from a state with their own registers changed. -/
theorem onlyThreeReadsHaveSideEffects : Obligations.OnlyThreeReadsHaveSideEffects := by
  intro a s t
  refine ⟨?others, ?status, ?data, ?joy⟩
  case others =>
    intro i hi h
    simp only [List.mem_cons, List.not_mem_nil, or_false] at hi
    obtain rfl | rfl | rfl | rfl | rfl | rfl | rfl | rfl | rfl := hi <;> cases h <;> exact ⟨_, rfl⟩
  case status => intro h; cases h; exact ⟨_, rfl⟩
  case data => intro h; cases h; exact dataR_frame a s
  case joy => intro h; cases h; exact ⟨_, rfl⟩

end Sys2Proof.Machine
end

section
/-! The frame buffer changes in one row at most (20_memory.md R54, 42_raster.md R140). -/
namespace Sys2Proof.Machine

/-- Rendering a scanline leaves every pixel of every other row (R140). -/
theorem State.rendered_read_other_row (s : State) {line y x : Nat} (hx : x < 256) (other : y ≠ line) :
    (s.rendered line).read (fbIndex y x) = s.pixel y x := by
  refine State.rendered_keeps (fun fb => fb.read (fbIndex y x) = s.pixel y x) s line (fun fb x' p c hx' kept => ?_) rfl
  have cells : fbIndex y x ≠ fbIndex line x' := fun e => other ((fbIndex_inj hx hx').1 e).1
  rw [Memory.read_write_other _ _ cells, kept]

/-- Settles O42: every step but the Active one keeps the frame buffer, and that one renders its own row only. -/
theorem onlyTheRenderedRowChanges : Obligations.OnlyTheRenderedRowChanges := by
  intro s t y x hx hstep changed
  have redrawn : t.fb ≠ s.fb := fun same => changed (congrArg (Memory.read · (fbIndex y x)) same)
  obtain ⟨x', rest, -, rfl⟩ | ⟨-, -, rfl⟩ | ⟨idle, running, active, rfl⟩ | ⟨-, -, -, rfl⟩ | ⟨-, -, -, rfl⟩ :=
    step_cases hstep
  · exact absurd (busEffect_fb _ _) redrawn
  · exact absurd rfl redrawn
  · refine ⟨idle, running, active, ?_⟩
    by_contra other
    refine changed ?_
    rw [State.pixel, seqActive_fb, State.rendered_read_other_row s hx other]
  · exact absurd (seqPostrender_fb s) redrawn
  · exact absurd (seqVblank_fb s) redrawn

end Sys2Proof.Machine
end

section
/-! Decoding an encoded operation (30_encoding.md R70, R71, R72, R84): one rule of the decoder per region of the CPU
address space (20_memory.md R41), for each direction. -/
namespace Sys2Proof
open Sys2Proof.Machine Sys2Proof.Laws.Encoding

@[simp] theorem decodeBus_read (a : Addr) : decodeBus (.read a) = decodeRead a := by simp [decodeBus]

@[simp] theorem decodeBus_write (a : Addr) (v : Byte) : decodeBus (.write a v) = decodeWrite a v := by simp [decodeBus]

theorem inRam_iff (a : Addr) : inRam a = true ↔ a.toNat < 0x2000 := decide_eq_true_iff

theorem inOpenRange_iff (a : Addr) : inOpenRange a = true ↔ 0x4000 ≤ a.toNat ∧ a.toNat < 0x8000 := by
  simp [inOpenRange]

theorem inPrg_iff (a : Addr) : inPrg a = true ↔ 0x8000 ≤ a.toNat := decide_eq_true_iff

theorem openR_wellFormed_iff (a : Addr) :
    (Instr.openR a).wellFormed = true ↔ inOpenRange a = true ∧ a ≠ 0x4016#16 := by
  simp [Instr.wellFormed]

theorem openW_wellFormed_iff (a : Addr) (v : Byte) :
    (Instr.openW a v).wellFormed = true ↔ inOpenRange a = true ∧ a ≠ 0x4014#16 ∧ a ≠ 0x4016#16 := by
  simp [Instr.wellFormed, and_assoc]

theorem decodeRead_ram {a : Addr} (h : inRam a = true) : decodeRead a = .ramR a :=
  if_pos ((inRam_iff a).1 h)

theorem decodeRead_port {p : Nat} {a : Addr} (h : atPort p a = true) : decodeRead a = decodePortRead p a := by
  obtain ⟨low, high, rfl⟩ := (atPort_iff p a).1 h
  unfold decodeRead
  rw [if_neg (by omega), if_pos high]

theorem decodeRead_open {a : Addr} (h : (Instr.openR a).wellFormed = true) : decodeRead a = .openR a := by
  obtain ⟨range, joy⟩ := (openR_wellFormed_iff a).1 h
  obtain ⟨low, high⟩ := (inOpenRange_iff a).1 range
  unfold decodeRead
  rw [if_neg (by omega), if_neg (by omega), if_neg joy, if_pos high]

theorem decodeRead_prg {a : Addr} (h : inPrg a = true) : decodeRead a = .prgR a := by
  have low := (inPrg_iff a).1 h
  unfold decodeRead
  rw [if_neg (by omega), if_neg (by omega), if_neg (by bv_omega), if_neg (by omega)]

theorem decodeWrite_ram {a : Addr} (h : inRam a = true) (v : Byte) : decodeWrite a v = .ramW a v :=
  if_pos ((inRam_iff a).1 h)

theorem decodeWrite_port {p : Nat} {a : Addr} (h : atPort p a = true) (v : Byte) :
    decodeWrite a v = decodePortWrite p a v := by
  obtain ⟨low, high, rfl⟩ := (atPort_iff p a).1 h
  unfold decodeWrite
  rw [if_neg (by omega), if_pos high]

theorem decodeWrite_open {a : Addr} {v : Byte} (h : (Instr.openW a v).wellFormed = true) :
    decodeWrite a v = .openW a v := by
  obtain ⟨range, dma, joy⟩ := (openW_wellFormed_iff a v).1 h
  obtain ⟨low, high⟩ := (inOpenRange_iff a).1 range
  unfold decodeWrite
  rw [if_neg (by omega), if_neg (by omega), if_neg dma, if_neg joy, if_pos high]

theorem decodeWrite_prg {a : Addr} (h : inPrg a = true) (v : Byte) : decodeWrite a v = .prgW a v := by
  have low := (inPrg_iff a).1 h
  unfold decodeWrite
  rw [if_neg (by omega), if_neg (by omega), if_neg (by bv_omega), if_neg (by bv_omega), if_neg (by omega)]

theorem decodeWord_read {a : Addr} {i : Instr} (h : decodeRead a = i) : decodeWord (.bus (.read a)) = .ok i :=
  congrArg Except.ok ((decodeBus_read a).trans h)

theorem decodeWord_write {a : Addr} {v : Byte} {i : Instr} (h : decodeWrite a v = i) :
    decodeWord (.bus (.write a v)) = .ok i :=
  congrArg Except.ok ((decodeBus_write a v).trans h)

/-- Settles O1, by the operation: the byte layout loses nothing, and the operation's address lies in the region whose
rule of the decoder gives it back. -/
theorem decodeOfEncodeIsTheOperation : Obligations.DecodeOfEncodeIsTheOperation := by
  intro i wf
  rw [decode_encode]
  cases i with
  | ramR a => exact decodeWord_read (decodeRead_ram wf)
  | ramW a v => exact decodeWord_write (decodeWrite_ram wf v)
  | ctrlR a | maskR a | statusR a | oamaddrR a | oamdataR a | scrollR a | addrR a | dataR a =>
    exact decodeWord_read (decodeRead_port wf)
  | ctrlW a v | maskW a v | statusW a v | oamaddrW a v | oamdataW a v | scrollW a v | addrW a v | dataW a v =>
    exact decodeWord_write (decodeWrite_port wf v)
  | oamdmaW v | joy1W v => exact decodeWord_write rfl
  | joy1R => exact decodeWord_read rfl
  | openR a => exact decodeWord_read (decodeRead_open wf)
  | openW a v => exact decodeWord_write (decodeWrite_open wf)
  | prgR a => exact decodeWord_read (decodeRead_prg wf)
  | prgW a v => exact decodeWord_write (decodeWrite_prg wf v)
  | seqActive | seqPostrender | seqVblank => rfl

/-- Settles O4: nine closed words, each decoded by computation. -/
theorem wordsOfTheTableSelectTheirOperations : Obligations.WordsOfTheTableSelectTheirOperations := by
  unfold Obligations.WordsOfTheTableSelectTheirOperations
  decide

end Sys2Proof
end

section
/-! What a transaction selects (30_encoding.md R71): a well-formed operation whose own word is the transaction's. -/
namespace Sys2Proof
open Sys2Proof.Machine

/-- What "the transaction `x` selects `i`" means, said without the decoder: `i` lies at an address that selects it, and
its word is `x`. -/
def Instr.SelectedBy (i : Instr) (x : BusTxn) : Prop := i.wellFormed = true ∧ encodeWord i = .bus x

theorem decodePortRead_selected {p : Nat} {a : Addr} (h : atPort p a = true) :
    (decodePortRead p a).SelectedBy (.read a) := by
  obtain ⟨-, -, hp⟩ := (atPort_iff p a).1 h
  have range : p < 8 := by omega
  interval_cases p <;> exact ⟨h, rfl⟩

theorem decodePortWrite_selected {p : Nat} {a : Addr} (h : atPort p a = true) (v : Byte) :
    (decodePortWrite p a v).SelectedBy (.write a v) := by
  obtain ⟨-, -, hp⟩ := (atPort_iff p a).1 h
  have range : p < 8 := by omega
  interval_cases p <;> exact ⟨h, rfl⟩

/-- The port a transaction below 0x4000 reaches, once it is no RAM transaction (R44). -/
theorem atPort_of_not_ram {a : Addr} (ram : ¬ a.toNat < 0x2000) (ports : a.toNat < 0x4000) :
    atPort (a.toNat % 8) a = true :=
  (atPort_iff _ a).2 ⟨Nat.not_lt.1 ram, ports, rfl⟩

theorem decodeRead_selected (a : Addr) : (decodeRead a).SelectedBy (.read a) := by
  unfold decodeRead
  split_ifs with ram ports joy range
  · exact ⟨(inRam_iff a).2 ram, rfl⟩
  · exact decodePortRead_selected (atPort_of_not_ram ram ports)
  · exact ⟨rfl, joy ▸ rfl⟩
  · exact ⟨(openR_wellFormed_iff a).2 ⟨(inOpenRange_iff a).2 ⟨Nat.not_lt.1 ports, range⟩, joy⟩, rfl⟩
  · exact ⟨(inPrg_iff a).2 (Nat.not_lt.1 range), rfl⟩

theorem decodeWrite_selected (a : Addr) (v : Byte) : (decodeWrite a v).SelectedBy (.write a v) := by
  unfold decodeWrite
  split_ifs with ram ports dma joy range
  · exact ⟨(inRam_iff a).2 ram, rfl⟩
  · exact decodePortWrite_selected (atPort_of_not_ram ram ports) v
  · exact ⟨rfl, dma ▸ rfl⟩
  · exact ⟨rfl, joy ▸ rfl⟩
  · exact ⟨(openW_wellFormed_iff a v).2 ⟨(inOpenRange_iff a).2 ⟨Nat.not_lt.1 ports, range⟩, dma, joy⟩, rfl⟩
  · exact ⟨(inPrg_iff a).2 (Nat.not_lt.1 range), rfl⟩

theorem decodeBus_selected (x : BusTxn) :
    (decodeBus x).SelectedBy ⟨x.word, if x.isWrite then x.data else 0#8⟩ := by
  unfold decodeBus
  cases dir : x.isWrite
  · rw [BusTxn.word_of_read dir]; exact decodeRead_selected x.addr
  · rw [BusTxn.word_of_write dir]; exact decodeWrite_selected x.addr x.data

/-- Settles O2, from the branch of the decoder the transaction takes. -/
theorem everyTransactionSelectsOneOperation : Obligations.EveryTransactionSelectsOneOperation := by
  intro x
  obtain ⟨wf, word⟩ := decodeBus_selected x
  exact ⟨wf, decodeBus_isBus x, word⟩

end Sys2Proof
end

section
/-! The opcode table (30_encoding.md R71): a well-formed operation's word matches the operation's own row, and no row
before it. -/
namespace Sys2Proof
open Sys2Proof.Machine

/-- Two rows whose patterns differ at a bit that both masks compare: no word matches both. -/
def BusRow.apart (r r' : BusRow) : Bool :=
  r.pattern &&& (r.mask &&& r'.mask) != r'.pattern &&& (r.mask &&& r'.mask)

theorem BusRow.hits_iff (r : BusRow) (t : TWord) : r.hits t = true ↔ t &&& r.mask = r.pattern := beq_iff_eq

theorem BusRow.not_hits_of_apart {r r' : BusRow} {t : TWord} (apart : r.apart r' = true) (hit : r'.hits t = true) :
    r.hits t = false := by
  rw [BusRow.hits_iff] at hit
  rw [Bool.eq_false_iff, ne_eq, BusRow.hits_iff]
  intro hit'
  refine bne_iff_ne.1 apart ?_
  rw [← hit, ← hit']
  ac_rfl

/-- The words of the three exact rows (R71). -/
def exactWords : List TWord := [0x14014#17, 0x04016#17, 0x14016#17]

/-- Only an exact row shares a word with a later row, one of the open range (R71's "after the rows above"). -/
theorem busRows_apart : busRows.Pairwise fun r r' =>
    r.apart r' = true ∨ (r.mask = BitVec.allOnes 17 ∧ r.pattern ∈ exactWords ∧ r'.mask = 0x1C000#17) := by
  decide

/-- A row that matches is the first to match, but for a row of the open range at an exact word. -/
theorem tableMnemonic_of_hits {i : Instr} {r : BusRow} {t : TWord}
    (row : busRows.find? (·.mnemonic == i.mnemonic) = some r) (hit : r.hits t = true)
    (inexact : r.mask ≠ 0x1C000#17 ∨ t ∉ exactWords) : tableMnemonic t = some i.mnemonic := by
  obtain ⟨earlier, later, parts⟩ := List.append_of_mem (List.mem_of_find?_eq_some row)
  have order := busRows_apart
  rw [parts, List.pairwise_append] at order
  obtain ⟨-, -, earlierApart⟩ := order
  have missed : ∀ r' ∈ earlier, (!r'.hits t) = true := by
    intro r' mem
    rw [Bool.not_eq_true']
    obtain apart | ⟨full, word, openRange⟩ := earlierApart r' mem r List.mem_cons_self
    · exact BusRow.not_hits_of_apart apart hit
    · rw [Bool.eq_false_iff, ne_eq, BusRow.hits_iff, full, BitVec.and_allOnes]
      rintro rfl
      exact inexact.elim (· openRange) (· word)
  have first : busRows.find? (·.hits t) = some r :=
    List.find?_eq_some_iff_append.2 ⟨hit, earlier, later, parts, missed⟩
  have name : r.mnemonic = i.mnemonic := by simpa using List.find?_some row
  rw [tableMnemonic, first, Option.map_some, name]

/-- `2 ^ w - 2 ^ k` masks the bits from `k` to `w - 1`. -/
theorem and_highBits {n k w : Nat} (hn : n < 2 ^ w) (hk : k ≤ w) : n &&& (2 ^ w - 2 ^ k) = n / 2 ^ k * 2 ^ k := by
  have ones : 2 ^ k = 2 ^ k - 1 + 1 := (Nat.sub_add_cancel Nat.one_le_two_pow).symm
  have below : 2 ^ k - 1 < 2 ^ w := ones ▸ Nat.pow_le_pow_right Nat.two_pos hk
  refine Nat.eq_of_testBit_eq fun i => ?_
  rw [ones, Nat.testBit_and, Nat.testBit_two_pow_sub_succ below, Nat.testBit_two_pow_sub_one, ← ones,
    Nat.testBit_mul_two_pow, Nat.testBit_div_two_pow]
  by_cases low : k ≤ i
  · obtain high | high := Nat.lt_or_ge i w
    · simp [low, high]
    · have clear : n.testBit i = false := Nat.testBit_lt_two_pow (hn.trans_le (Nat.pow_le_pow_right Nat.two_pos high))
      simp [low, clear]
  · simp [low, Nat.not_le.1 low]

theorem word_toNat (d : BitVec 1) (a : Addr) : (d ++ a : TWord).toNat = d.toNat * 65536 + a.toNat :=
  (BitVec.toNat_append d a).trans (shiftLeft_or_of_lt a.isLt)

/-- A row that compares the bits from `k` up matches the words that agree with its pattern in them. -/
theorem BusRow.hits_block {r : BusRow} {t : TWord} {k : Nat} (hk : k ≤ 17) (mask : r.mask.toNat = 2 ^ 17 - 2 ^ k)
    (block : t.toNat / 2 ^ k * 2 ^ k = r.pattern.toNat) : r.hits t = true := by
  rw [BusRow.hits_iff]
  apply BitVec.eq_of_toNat_eq
  rw [BitVec.toNat_and, mask, and_highBits t.isLt hk, block]

theorem exactRow_hits {r : BusRow} {t : TWord} (full : r.mask = BitVec.allOnes 17) (pattern : r.pattern = t) :
    r.hits t = true := by
  rw [BusRow.hits_iff, full, BitVec.and_allOnes, pattern]

section rows
variable {r : BusRow} {d : BitVec 1} {a : Addr}

theorem ramRow_hits (ram : inRam a = true) (mask : r.mask.toNat = 0x1E000)
    (pattern : r.pattern.toNat = d.toNat * 65536) : r.hits (d ++ a) = true := by
  rw [inRam_iff] at ram
  refine BusRow.hits_block (k := 13) (by decide) mask ?_
  rw [word_toNat]; omega

theorem openRow_hits (range : inOpenRange a = true) (mask : r.mask.toNat = 0x1C000)
    (pattern : r.pattern.toNat = d.toNat * 65536 + 0x4000) : r.hits (d ++ a) = true := by
  rw [inOpenRange_iff] at range
  refine BusRow.hits_block (k := 14) (by decide) mask ?_
  rw [word_toNat]; omega

theorem prgRow_hits (prg : inPrg a = true) (mask : r.mask.toNat = 0x18000)
    (pattern : r.pattern.toNat = d.toNat * 65536 + 0x8000) : r.hits (d ++ a) = true := by
  rw [inPrg_iff] at prg
  have := a.isLt
  refine BusRow.hits_block (k := 15) (by decide) mask ?_
  rw [word_toNat]; omega

/-- A port's row compares the block of the ports and the port index `A[2:0]` (R72). -/
theorem portRow_hits {p : Nat} (port : atPort p a = true) (mask : r.mask = 0x1E007#17)
    (pattern : r.pattern.toNat = d.toNat * 65536 + (0x2000 + p)) : r.hits (d ++ a) = true := by
  obtain ⟨low, high, rfl⟩ := (atPort_iff p a).1 port
  rw [BusRow.hits_iff, mask]
  apply BitVec.eq_of_toNat_eq
  have fields : (0x1E007#17).toNat = (2 ^ 17 - 2 ^ 13) ||| (2 ^ 3 - 1) := by decide
  rw [BitVec.toNat_and, fields, Nat.and_or_distrib_left, and_highBits (BitVec.isLt _) (by decide),
    Nat.and_two_pow_sub_one_eq_mod, ← Nat.shiftLeft_eq, shiftLeft_or_of_lt (by omega), pattern, word_toNat]
  omega

end rows

theorem readWord_inexact {a : Addr} (joy : a ≠ 0x4016#16) : (0#1 ++ a : TWord) ∉ exactWords := by
  intro mem
  simp only [exactWords, List.mem_cons, List.not_mem_nil, or_false, ← BitVec.toNat_inj, readWord_toNat] at mem
  bv_omega

theorem writeWord_inexact {a : Addr} (dma : a ≠ 0x4014#16) (joy : a ≠ 0x4016#16) :
    (1#1 ++ a : TWord) ∉ exactWords := by
  intro mem
  simp only [exactWords, List.mem_cons, List.not_mem_nil, or_false, ← BitVec.toNat_inj, writeWord_toNat] at mem
  bv_omega

/-- An operation's word matches its own row by the region of its address; only the rows of the open range need the two
exact addresses excluded. -/
theorem tableMnemonic_of_selected {i : Instr} {t : TWord} {v : Byte} (h : i.SelectedBy ⟨t, v⟩) :
    tableMnemonic t = some i.mnemonic := by
  obtain ⟨wf, word⟩ := h
  cases i with
  | ramR a | ramW a v => cases word; exact tableMnemonic_of_hits rfl (ramRow_hits wf rfl rfl) (.inl (by decide))
  | ctrlR a | maskR a | statusR a | oamaddrR a | oamdataR a | scrollR a | addrR a | dataR a
  | ctrlW a v | maskW a v | statusW a v | oamaddrW a v | oamdataW a v | scrollW a v | addrW a v | dataW a v =>
    cases word; exact tableMnemonic_of_hits rfl (portRow_hits wf rfl rfl) (.inl (by decide))
  | oamdmaW v | joy1R | joy1W v =>
    cases word; exact tableMnemonic_of_hits rfl (exactRow_hits rfl rfl) (.inl (by decide))
  | openR a =>
    obtain ⟨range, joy⟩ := (openR_wellFormed_iff a).1 wf
    cases word; exact tableMnemonic_of_hits rfl (openRow_hits range rfl rfl) (.inr (readWord_inexact joy))
  | openW a v =>
    obtain ⟨range, dma, joy⟩ := (openW_wellFormed_iff a v).1 wf
    cases word; exact tableMnemonic_of_hits rfl (openRow_hits range rfl rfl) (.inr (writeWord_inexact dma joy))
  | prgR a | prgW a v => cases word; exact tableMnemonic_of_hits rfl (prgRow_hits wf rfl rfl) (.inl (by decide))
  | seqActive | seqPostrender | seqVblank => cases word

/-- Settles O3: the table's first row for the word of the operation that the transaction selects is that operation's. -/
theorem decodeIsTheFirstMatchingTableRow : Obligations.DecodeIsTheFirstMatchingTableRow :=
  fun x => tableMnemonic_of_selected (decodeBus_selected x)

end Sys2Proof
end

section
/-! The AddressBus operations (40_bus_operations.md R91, R92, R96 to R98, R101): each answers its effect, and the law of
the memory it writes gives the cells. -/
namespace Sys2Proof.Machine

/-- Settles O12: `A & 0x7FF` is the remainder modulo 2048. -/
theorem ramReadReturnsTheCell : Obligations.RamReadReturnsTheCell :=
  fun a s => exec_bus (.ramR a) s rfl

/-- Settles O13: the cell is the folded address, and a write changes the one cell it names. -/
theorem ramWriteChangesOneCell : Obligations.RamWriteChangesOneCell := by
  intro a v s
  refine ⟨ramW a v s, exec_bus (.ramW a v) s rfl, rfl, ?written, ?others⟩
  case written => exact Memory.read_write_same s.ram (ramIndex a) v
  case others => exact fun k other => Memory.read_write_other s.ram v other

/-- Settles O15: the copy fills cells 0 to 255 of `OAM` from the folded page, and reaches no cell above. -/
theorem oamDmaCopiesThePage : Obligations.OamDmaCopiesThePage := by
  intro v s
  refine ⟨oamdmaW v s, exec_bus (.oamdmaW v) s rfl, ?frame, ?copied⟩
  case frame => rw [oamdmaW]
  case copied =>
    intro i
    rw [oamdmaW, Memory.read_fill]
    rfl

/-- Settles O19: the fill byte is 0xFF, and the write is dropped. -/
theorem openBusReadsFillAndDropsWrites : Obligations.OpenBusReadsFillAndDropsWrites :=
  fun a v s => ⟨exec_bus (.openR a) s rfl, exec_bus (.openW a v) s rfl⟩

/-- Settles O20: the byte is the one at `prgOffset`, which no register of the state enters. -/
theorem prgReadReturnsTheRomByte : Obligations.PrgReadReturnsTheRomByte :=
  fun a s _ => exec_bus (.prgR a) s rfl

end Sys2Proof.Machine
end

section
/-! The controller port (40_bus_operations.md R99, R100): what one read and one strobe change, what any number of reads
shift out, and so the order in which eight reads return the buttons. -/
namespace Sys2Proof.Machine

/-- What a controller read sends out for the bit it shifts out: zero above bit 0 (R100, D25). -/
def bitAnswer (bit : Bool) : Output := .returned (if bit then 1#8 else 0#8)

/-- The whole effect of one controller read (R100, D25). -/
theorem joy1R_eq (s : State) :
    joy1R s = { s with
      joyShift := shiftedOut s.params.ctrlShiftFill s.joyShift
      trace := bitAnswer (s.joyShift.getLsbD 0) :: s.trace } := by
  rw [bitAnswer, ← controllerByte_eq]
  rfl

/-- The whole effect of a strobe: the host is polled once and its answer latched (R99, D25). -/
theorem joy1W_strobe {v : Byte} (strobe : v ≠ 0#8) (s : State) :
    joy1W v s = { s with
      joyShift := buttonsByte s.pollButtons.1
      buttons := s.buttons.tail
      drawn := s.drawn + (if s.buttons = [] then 1 else 0)
      trace := .pollButtonStates :: s.trace } := by
  simp only [joy1W, if_neg strobe, State.pollButtons_snd]

/-- Settles O16: a zero byte is no strobe; any other latches what the poll answers, and the poll answers what the input
data gives. -/
theorem controllerStrobeLatchesTheButtons : Obligations.ControllerStrobeLatchesTheButtons := by
  intro v s
  refine ⟨?zero, fun strobe => ⟨s.pollButtons.1, joy1W v s, exec_bus (.joy1W v) s rfl, ?polled, ?frame, ?latched⟩⟩
  case zero =>
    rintro rfl
    exact exec_bus (.joy1W 0#8) s rfl
  case polled => exact State.pollButtons_fst s
  case frame => rw [joy1W_strobe strobe]
  case latched =>
    rw [joy1W_strobe strobe]
    exact buttonsByte_bits s.pollButtons.1

/-- Settles O17: bit 0 leaves, every other bit moves down by one, and the fill bit enters at the top. -/
theorem controllerReadShiftsOneBitOut : Obligations.ControllerReadShiftsOneBitOut := by
  intro s
  refine ⟨joy1R s, exec_bus .joy1R s rfl, ?frame, ?shifted, ?filled⟩
  case frame => exact joy1R_eq s
  case shifted => exact fun k hk => shiftedOut_getLsbD_low s.params.ctrlShiftFill s.joyShift hk
  case filled => exact shiftedOut_getLsbD_top s.params.ctrlShiftFill s.joyShift

/-- The controller register after `n` reads (R100). -/
def shiftedOutTimes (fill : Bool) (n : Nat) (shift : Byte) : Byte := (shiftedOut fill)^[n] shift

/-- Bit `k` after `n` reads is bit `n + k` before them, and a fill bit when there is none. -/
theorem shiftedOutTimes_getLsbD (fill : Bool) (n : Nat) (shift : Byte) {k : Nat} (hk : k < 8) :
    (shiftedOutTimes fill n shift).getLsbD k = if n + k < 8 then shift.getLsbD (n + k) else fill := by
  unfold shiftedOutTimes
  induction n generalizing k with
  | zero => simp [hk]
  | succ n ih =>
    rw [Function.iterate_succ_apply']
    obtain low | rfl : k < 7 ∨ k = 7 := by omega
    · rw [shiftedOut_getLsbD_low _ _ low, ih (by omega), Nat.add_right_comm n 1 k, Nat.add_assoc n k 1]
    · rw [shiftedOut_getLsbD_top, if_neg (by omega)]

/-- What `n` controller reads return, newest first as in `trace`: each the bottom bit of the register as it then is. -/
def joyAnswers (fill : Bool) (n : Nat) (shift : Byte) : List Output :=
  (List.range n).reverse.map fun k => bitAnswer ((shiftedOutTimes fill k shift).getLsbD 0)

/-- The first read returns the register's own bottom bit, and the others what the register shifted once gives. -/
theorem joyAnswers_succ (fill : Bool) (n : Nat) (shift : Byte) :
    joyAnswers fill (n + 1) shift =
      joyAnswers fill n (shiftedOut fill shift) ++ [bitAnswer (shift.getLsbD 0)] := by
  rw [joyAnswers, List.range_succ_eq_map, List.reverse_cons, List.map_append, ← List.map_reverse, List.map_map]
  rfl

/-- The first eight answers are the register's bits, bit 0 the oldest. -/
theorem joyAnswers_eight (fill : Bool) (shift : Byte) :
    joyAnswers fill 8 shift = ((List.range 8).map fun k => shift.getLsbD k).reverse.map bitAnswer := by
  rw [joyAnswers, ← List.map_reverse, List.map_map]
  refine List.map_congr_left fun k hk => ?_
  have below : k < 8 := by simpa using hk
  rw [shiftedOutTimes_getLsbD fill k shift (by decide), if_pos (by omega)]
  rfl

/-- A step over a presented read of 0x4016 (R71, R100). -/
theorem step_joyRead {s : State} {rest : List BusTxn} (presented : s.pending = .read 0x4016#16 :: rest) :
    step s = .next { s with
      pending := rest
      joyShift := shiftedOut s.params.ctrlShiftFill s.joyShift
      trace := bitAnswer (s.joyShift.getLsbD 0) :: s.trace } :=
  (step_pending s _ rest presented).trans (congrArg Host.Outcome.next (joy1R_eq { s with pending := rest }))

/-- A run over `n` presented reads of 0x4016, by induction on their number (R100). -/
theorem run_joyReads (n : Nat) (s : State) (rest : List BusTxn)
    (presented : s.pending = List.replicate n (.read 0x4016#16) ++ rest) :
    Host.Core.run Sys2Proof.core n s = .next { s with
      pending := rest
      joyShift := shiftedOutTimes s.params.ctrlShiftFill n s.joyShift
      trace := joyAnswers s.params.ctrlShiftFill n s.joyShift ++ s.trace } := by
  induction n generalizing s with
  | zero =>
    subst presented
    rfl
  | succ n ih =>
    rw [run_step n (step_joyRead presented), ih _ rfl, joyAnswers_succ, List.append_assoc]
    rfl

/-- Settles O18: the answers of the run are the latched bits in order, and after eight reads every bit is a fill bit. -/
theorem eightControllerReadsReturnTheButtonsInOrder : Obligations.EightControllerReadsReturnTheButtonsInOrder := by
  intro s b rest latched presented
  refine ⟨_, run_joyReads 8 s rest presented, rfl, ?filled, ?answers⟩
  case filled =>
    intro k hk
    exact (shiftedOutTimes_getLsbD _ 8 _ hk).trans (if_neg (by omega))
  case answers =>
    have bits : joyAnswers s.params.ctrlShiftFill 8 s.joyShift =
        [b.right, b.left, b.down, b.up, b.start, b.select, b.b, b.a].map bitAnswer := by
      rw [joyAnswers_eight, latched, buttonsByte_bits]
      rfl
    exact congrArg (· ++ s.trace) bits

end Sys2Proof.Machine
end

section
/-! The PPU ports (41_ppu_ports.md): the whole effect of each write that has branches, said once for the later
statements, and the statements about the registers a port access sets. -/
namespace Sys2Proof.Machine

/-- The whole effect of CTRL.W, the enable edge written out in bits (R111, D32). -/
theorem ctrlW_eq (a : Addr) (v : Byte) (s : State) :
    ctrlW a v s = { s with
      ctrl := v
      trace := (if s.ctrl.getLsbD 7 = false ∧ v.getLsbD 7 = true ∧ s.status.getLsbD 7 = true
                then [Output.raiseNmi] else []) ++ s.trace } := by
  have edge : (!s.nmiEnable && nmiBit v && s.vblank) = true ↔
      s.ctrl.getLsbD 7 = false ∧ v.getLsbD 7 = true ∧ s.status.getLsbD 7 = true := by
    simp [State.nmiEnable, nmiBit, State.vblank, and_assoc]
  simp only [ctrlW, edge]
  split <;> rfl

/-- The whole effect of SCROLL.W (R120). -/
theorem scrollW_eq (a : Addr) (v : Byte) (s : State) :
    scrollW a v s = { s with
      scrollX := if s.wLatch then s.scrollX else v
      scrollY := if s.wLatch then v else s.scrollY
      wLatch := !s.wLatch } := by
  unfold scrollW
  cases s.wLatch <;> rfl

/-- The whole effect of ADDR.W (R122). -/
theorem addrW_eq (a : Addr) (v : Byte) (s : State) :
    addrW a v s = { s with
      vramAddr := if s.wLatch then withAddrLow s.vramAddr v else withAddrHigh s.vramAddr v
      wLatch := !s.wLatch } := by
  unfold addrW
  cases s.wLatch <;> rfl

/-- The first address write of a pair replaces the high six bits, and keeps the low byte (R122, D7). -/
theorem addrW_first {s : State} (clear : s.wLatch = false) (a : Addr) (v : Byte) :
    (addrW a v s).vramAddr.toNat = v.toNat % 64 * 256 + s.vramAddr.toNat % 256 := by
  rw [addrW_eq, clear]
  exact withAddrHigh_toNat s.vramAddr v

/-- The second address write of a pair replaces the low byte, and keeps the high six bits (R122, D7). -/
theorem addrW_second {s : State} (set : s.wLatch = true) (a : Addr) (v : Byte) :
    (addrW a v s).vramAddr.toNat = s.vramAddr.toNat / 256 * 256 + v.toNat := by
  rw [addrW_eq, set]
  exact withAddrLow_toNat s.vramAddr v

/-- What is rendered depends on `mask` through its two visible flags alone (R13, R140, D4). -/
theorem State.rendered_mask_congr (s : State) {v w : Byte} (bg : w.getLsbD 3 = v.getLsbD 3)
    (spr : w.getLsbD 4 = v.getLsbD 4) (line : Nat) :
    State.rendered { s with mask := w } line = State.rendered { s with mask := v } line := by
  simp only [State.rendered, State.bgVisible, State.sprVisible, bg, spr]
  rfl

/-- With both passes skipped a row stays as it is (R140, D17). -/
theorem State.rendered_of_hidden (s : State) (bg : s.bgVisible = false) (spr : s.sprVisible = false) (line : Nat) :
    s.rendered line = s.fb := by
  simp only [State.rendered, bg, spr, Bool.false_eq_true, if_false]

/-- Settles O24: the enable edge, as three bits, is the branch in which the request is sent. -/
theorem controlWriteSetsControlAndMayRequestNmi : Obligations.ControlWriteSetsControlAndMayRequestNmi :=
  fun a v s => congrArg Host.Outcome.next (ctrlW_eq a v s)

/-- Settles O25: the passes read no other bit of `mask` than the two flags, and without a flag neither runs. -/
theorem maskWriteSetsTheVisibleFlags : Obligations.MaskWriteSetsTheVisibleFlags := by
  intro a v s
  refine ⟨maskW a v s, exec_bus (.maskW a v) s rfl, rfl, rfl, rfl, ?flags, ?hidden⟩
  case flags => exact fun w line bg spr => State.rendered_mask_congr s bg spr line
  case hidden => exact fun line bg spr => State.rendered_of_hidden (maskW a v s) bg spr line

/-- Settles O30: the latch says which of the two a write sets, and each write toggles it. -/
theorem scrollWritesAlternate : Obligations.ScrollWritesAlternate := by
  refine ⟨fun a v s => exec_bus (.scrollW a v) s rfl, ?cycle⟩
  intro a b c x y z s t u w clear first second third
  cases first
  cases second
  cases third
  simp [scrollW_eq, clear]

/-- Settles O31, by the latch: each write replaces one half of the address. -/
theorem addressWritesSetTheirHalf : Obligations.AddressWritesSetTheirHalf := by
  intro a v s
  refine ⟨addrW a v s, exec_bus (.addrW a v) s rfl, ?frame, ?first, ?second⟩
  case frame => rw [addrW_eq]
  case first => exact fun clear => addrW_first clear a v
  case second => exact fun set => addrW_second set a v

/-- Settles O23: the five reads answer the fill, and the status write is dropped. -/
theorem portsWithoutADirectionChangeNothing : Obligations.PortsWithoutADirectionChangeNothing := by
  intro a v s
  refine ⟨?reads, exec_bus (.statusW a v) s rfl⟩
  case reads =>
    intro i hi
    simp only [List.mem_cons, List.not_mem_nil, or_false] at hi
    obtain rfl | rfl | rfl | rfl | rfl := hi <;> exact exec_bus _ s rfl

/-- Clearing the flag clears bit 7 of `status` and keeps every other bit (R114, R180). -/
theorem State.clearVblank_getLsbD (s : State) (k : Nat) :
    s.clearVblank.status.getLsbD k = if k = 7 then false else s.status.getLsbD k := by
  by_cases inside : k < 8
  · interval_cases k <;> simp
  · rw [if_neg (by omega), BitVec.getLsbD_of_ge _ _ (by omega), BitVec.getLsbD_of_ge _ _ (by omega)]

/-- Settles O26: the answer is the byte before the clear, and the clear is of bit 7 alone. -/
theorem statusReadReturnsThenClears : Obligations.StatusReadReturnsThenClears := by
  intro a s
  refine ⟨statusR a s, exec_bus (.statusR a) s rfl, rfl, ?cleared, ?kept⟩
  case cleared => exact (State.clearVblank_getLsbD s 7).trans (if_pos rfl)
  case kept => exact fun k other => (State.clearVblank_getLsbD s k).trans (if_neg other)

/-- Settles O27: the write is the one update, whatever the latch. -/
theorem oamAddressWriteSetsTheCursor : Obligations.OamAddressWriteSetsTheCursor :=
  fun a v s => exec_bus (.oamaddrW a v) s rfl

/-- Settles O28: a write changes the one cell at the cursor, and the 8-bit cursor wraps. -/
theorem oamDataWriteStoresAndIncrements : Obligations.OamDataWriteStoresAndIncrements := by
  intro a v s
  refine ⟨oamdataW a v s, exec_bus (.oamdataW a v) s rfl, rfl, ?cursor, ?written, ?others⟩
  case cursor => exact nextOamAddr_toNat s.oamAddr
  case written => exact Memory.read_write_same s.oam s.oamAddr.toNat v
  case others => exact fun k other => Memory.read_write_other s.oam v other

/-- Settles O29: the read only answers. -/
theorem oamDataReadLeavesTheCursor : Obligations.OamDataReadLeavesTheCursor :=
  fun a s => exec_bus (.oamdataR a) s rfl

end Sys2Proof.Machine
end

section
/-! The data port (41_ppu_ports.md R124, R125, R128): the store or the buffered read, and the advance both accesses
share. -/
namespace Sys2Proof.Machine

/-- The whole effect of DATA.W over the store and the advance (R124). -/
theorem dataW_eq (a : Addr) (v : Byte) (s : State) :
    dataW a v s = { s with
      nt := (s.vramWrite s.vramAddr.toNat v).nt
      pal := (s.vramWrite s.vramAddr.toNat v).pal
      vramAddr := s.advanceVram.vramAddr } := by
  unfold dataW
  rw [State.vramWrite_eq]
  rfl

/-- A palette read is immediate and leaves the buffer (R125, D8). -/
theorem dataR_palette {s : State} (palette : 0x3F00 ≤ s.vramAddr.toNat) (a : Addr) :
    dataR a s = { s with
      vramAddr := s.advanceVram.vramAddr
      trace := .returned (s.pal.read (s.vramAddr.toNat % 64)) :: s.trace } :=
  if_pos palette

/-- Every other read returns the buffer and refills it from before the advance (R125). -/
theorem dataR_buffered {s : State} (below : s.vramAddr.toNat < 0x3F00) (a : Addr) :
    dataR a s = { s with
      readBuf := s.vramRead s.vramAddr.toNat
      vramAddr := s.advanceVram.vramAddr
      trace := .returned s.readBuf :: s.trace } :=
  if_neg (Nat.not_le.2 below)

/-- The advance's step, in bit 2 of `ctrl` (R12, R128). -/
theorem State.advanceVram_toNat_ctrl (s : State) : s.advanceVram.vramAddr.toNat =
    (s.vramAddr.toNat + if s.ctrl.getLsbD 2 = true then 32 else 1) % 0x4000 :=
  s.advanceVram_toNat

/-- DATA.R advances the address, in the palette and below it (R128). -/
theorem dataR_vramAddr_toNat (a : Addr) (s : State) : (dataR a s).vramAddr.toNat =
    (s.vramAddr.toNat + if s.ctrl.getLsbD 2 = true then 32 else 1) % 0x4000 := by
  rw [← State.advanceVram_toNat_ctrl]
  obtain palette | below := le_or_gt 0x3F00 s.vramAddr.toNat
  · rw [dataR_palette palette]
  · rw [dataR_buffered below]

/-- DATA.W advances the address, wherever the store goes (R128). -/
theorem dataW_vramAddr_toNat (a : Addr) (v : Byte) (s : State) : (dataW a v s).vramAddr.toNat =
    (s.vramAddr.toNat + if s.ctrl.getLsbD 2 = true then 32 else 1) % 0x4000 := by
  rw [← State.advanceVram_toNat_ctrl, dataW_eq]

/-- Settles O32: the cells are those of the map's store at the address, a 14-bit number. -/
theorem dataWriteStoresThenAdvances : Obligations.DataWriteStoresThenAdvances := by
  intro a v s
  refine ⟨dataW a v s, exec_bus (.dataW a v) s rfl, ?frame, ?advanced, ?nametable, ?palette⟩
  case frame => rw [dataW_eq]
  case advanced => exact dataW_vramAddr_toNat a v s
  case nametable =>
    intro k
    simp only [dataW_eq, State.vramWrite_nt_read s s.vramAddr.isLt, @eq_comm _ k]
  case palette =>
    intro k
    simp only [dataW_eq, State.vramWrite_pal_read s s.vramAddr.isLt, @eq_comm _ k]

/-- Settles O33, by the side of 0x3F00 on which the address lies. -/
theorem dataReadIsBufferedBelowThePalette : Obligations.DataReadIsBufferedBelowThePalette := by
  intro a s
  obtain palette | below := le_or_gt 0x3F00 s.vramAddr.toNat
  · refine ⟨dataR a s, s.pal.read (s.vramAddr.toNat % 64), exec_bus (.dataR a) s rfl, ?paletteFrame,
      dataR_vramAddr_toNat a s, fun _ => ⟨rfl, ?kept⟩, fun below => absurd below (Nat.not_lt.2 palette)⟩
    case paletteFrame => rw [dataR_palette palette]
    case kept => rw [dataR_palette palette]
  · refine ⟨dataR a s, s.readBuf, exec_bus (.dataR a) s rfl, ?bufferedFrame,
      dataR_vramAddr_toNat a s, fun palette => absurd below (Nat.not_lt.2 palette), fun _ => ⟨rfl, ?refilled⟩⟩
    case bufferedFrame => rw [dataR_buffered below]
    case refilled => rw [dataR_buffered below]

/-- Settles O34: the first read refills the buffer, which the second returns. -/
theorem dataReadLagsByOneCall : Obligations.DataReadLagsByOneCall := by
  intro a b s t u below first below' second
  have refilled : t.readBuf = s.vramRead s.vramAddr.toNat := by
    cases first
    exact congrArg State.readBuf (dataR_buffered below a)
  have returned : u.trace = .returned t.readBuf :: t.trace := by
    cases second
    exact congrArg State.trace (dataR_buffered below' b)
  rw [returned, refilled, List.head?_cons]

end Sys2Proof.Machine
end

section
/-! Which bus operation touches the video address (R128) and the write latch (R127), and the latch through a step of the
sequencer. -/
namespace Sys2Proof.Machine

/-- JOY1.W touches the controller register and the poll's inputs and record alone (R99). -/
theorem joy1W_frame (v : Byte) (s : State) : joy1W v s = { s with
    joyShift := (joy1W v s).joyShift
    buttons := (joy1W v s).buttons
    drawn := (joy1W v s).drawn
    trace := (joy1W v s).trace } := by
  by_cases zero : v = 0#8
  · rw [joy1W, if_pos zero]
  · rw [joy1W_strobe zero]

/-- The whole effect of PRG.W: `chr_bank`, under the known mapper alone (R161, R162). -/
theorem prgW_eq (a : Addr) (v : Byte) (s : State) :
    prgW a v s = { s with
      chrBank := if s.cart.mapperId = s.params.bankselMapperId then bankOf s.cart.bankCount v else s.chrBank } := by
  unfold prgW onPrgWrite
  split <;> rfl

/-- No operation but the data port's two and ADDR.W moves the video address (R128). -/
theorem busEffect_vramAddr {i : Instr} (notRead : ∀ a, i ≠ .dataR a) (notWrite : ∀ a v, i ≠ .dataW a v)
    (notAddr : ∀ a v, i ≠ .addrW a v) (s : State) : (busEffect i s).vramAddr = s.vramAddr := by
  cases i with
  | dataR a => exact absurd rfl (notRead a)
  | dataW a v => exact absurd rfl (notWrite a v)
  | addrW a v => exact absurd rfl (notAddr a v)
  | ctrlW a v => rw [busEffect, ctrlW_eq]
  | scrollW a v => rw [busEffect, scrollW_eq]
  | joy1W v => rw [busEffect, joy1W_frame]
  | prgW a v => rw [busEffect, prgW_eq]
  | _ => rfl

/-- No operation but SCROLL.W, ADDR.W and STATUS.R touches the write latch (R127). -/
theorem busEffect_wLatch {i : Instr} (notScroll : ∀ a v, i ≠ .scrollW a v) (notAddr : ∀ a v, i ≠ .addrW a v)
    (notStatus : ∀ a, i ≠ .statusR a) (s : State) : (busEffect i s).wLatch = s.wLatch := by
  cases i with
  | scrollW a v => exact absurd rfl (notScroll a v)
  | addrW a v => exact absurd rfl (notAddr a v)
  | statusR a => exact absurd rfl (notStatus a)
  | ctrlW a v => rw [busEffect, ctrlW_eq]
  | dataR a =>
    obtain ⟨_, frame⟩ := dataR_frame a s
    rw [busEffect, frame]
  | dataW a v => rw [busEffect, dataW_eq]
  | joy1W v => rw [busEffect, joy1W_frame]
  | prgW a v => rw [busEffect, prgW_eq]
  | _ => rfl

/-- A call of the CPU engine that presents nothing (R6). -/
theorem executeCycles_idle {s : State} (idle : s.budgets.head? = some []) :
    executeCycles s = { s with
      budgets := s.budgets.tail
      trace := .executeCycles s.params.cyclesPerScanline :: s.trace } := by
  have given : s.budgets ≠ [] := fun none => by simp [none] at idle
  simp only [executeCycles, State.takeBudget_fst s [] idle, State.takeBudget_snd, if_neg given]
  rfl

/-- A step of the sequencer touches the latch through its budget alone (R127). -/
theorem exec_seq_wLatch {i : Instr} {s t : State} (seq : i.isBus = false) (idle : s.budgets.head? = some [])
    (h : exec i s = .next t) : t.wLatch = s.wLatch := by
  cases i with
  | seqActive =>
    cases h
    have rendered : (renderScanline s.scanline.toNat s).budgets.head? = some [] := idle
    simp only [seqActive, executeCycles_idle rendered, renderScanline_wLatch]
  | seqPostrender => cases h; rw [seqPostrender_eq, executeCycles_idle idle]
  | seqVblank => cases h; rw [seqVblank_eq, executeCycles_idle idle]
  | _ => cases seq

/-- Settles O35: both accesses end in the one advance, and every other operation but ADDR.W leaves the address. -/
theorem dataPortAccessAdvancesByTheStep : Obligations.DataPortAccessAdvancesByTheStep := by
  refine ⟨?accesses, ?others⟩
  case accesses =>
    intro a v s t i hi h
    simp only [List.mem_cons, List.not_mem_nil, or_false] at hi
    obtain rfl | rfl := hi <;> cases h
    · exact dataR_vramAddr_toNat a s
    · exact dataW_vramAddr_toNat a v s
  case others =>
    intro i s t bus notRead notWrite notAddr h
    cases (exec_bus i s bus).symm.trans h
    exact busEffect_vramAddr notRead notWrite notAddr s

/-- Settles O36: two operations toggle the latch, two clear it, the others leave it; so an address write that follows a
scroll write is the second of a pair. -/
theorem theWriteLatchIsSharedByTwoPorts : Obligations.TheWriteLatchIsSharedByTwoPorts := by
  refine ⟨?toggled, ?statusRead, ?reset, ?others, ?shared⟩
  case toggled =>
    intro a v s t i hi h
    simp only [List.mem_cons, List.not_mem_nil, or_false] at hi
    obtain rfl | rfl := hi <;> cases h
    · rw [scrollW_eq]
    · rw [addrW_eq]
  case statusRead =>
    intro a s t h
    cases h
    rfl
  case reset => exact fun s => rfl
  case others =>
    intro i s t notScroll notAddr notStatus idle h
    cases bus : i.isBus with
    | false => exact exec_seq_wLatch bus (idle bus) h
    | true =>
      cases (exec_bus i s bus).symm.trans h
      exact busEffect_wLatch notScroll notAddr notStatus s
  case shared =>
    intro a b x y s t u clear scrolled addressed
    cases scrolled
    cases addressed
    have set : (scrollW a x s).wLatch = true := by simp [scrollW_eq, clear]
    refine ⟨?x, ?low, ?cleared⟩
    case x => simp [addrW_eq, scrollW_eq, clear]
    case low => rw [addrW_second set, scrollW_eq]
    case cleared => simp [addrW_eq, set]

end Sys2Proof.Machine
end

section
/-! The background of a row (42_raster.md R141 to R145) and the pixel both passes give (R140, R146 to R152). -/
namespace Sys2Proof.Machine

/-- The sprite pass acts on each pixel of its row alone: reading the pixel turns the drawing of an entry into what the
entry makes of the byte, so it turns the whole pass into the fold over the entries (R146). -/
theorem State.spritePass_read (s : State) (line : Nat) (fb : Memory) {x : Nat} (hx : x < 256) :
    (s.spritePass line fb).read (fbIndex line x) =
      (List.range 64).foldl (s.spriteOver line x) (fb.read (fbIndex line x)) := by
  refine (List.foldl_hom (fun m : Memory => m.read (fbIndex line x)) (fun fb i => ?_)).symm
  cases active : s.spriteActive line i with
  | false => exact State.spriteOver_inactive s line x i _ active
  | true => exact ((State.drawSprite_read s line i fb line x hx active).trans (if_pos rfl)).symm

/-- Rendering a row gives each of its pixels the value composed for that pixel alone (R140). -/
theorem State.rendered_read (s : State) (line : Nat) {x : Nat} (hx : x < 256) :
    (s.rendered line).read (fbIndex line x) = s.composedPixel line x := by
  have background : (if s.bgVisible = true then s.backgroundPass line s.fb else s.fb).read (fbIndex line x) =
      if s.bgVisible = true then s.backgroundPixel line x else s.pixel line x := by
    split
    · exact (State.backgroundPass_read s line s.fb line x hx).trans (if_pos rfl)
    · rfl
  unfold State.rendered State.composedPixel
  dsimp only
  split
  · rw [State.spritePass_read s line _ hx, background]
  · exact background

/-- The row an Active step renders (R140, R176). -/
theorem seqActive_pixel (s : State) {x : Nat} (hx : x < 256) :
    (seqActive s).pixel s.scanline.toNat x = s.composedPixel s.scanline.toNat x := by
  rw [State.pixel, seqActive_fb, State.rendered_read s _ hx]

/-- The background's pixel as a number (R144, R145). -/
theorem State.backgroundPixel_toNat (s : State) (line x : Nat) :
    (s.backgroundPixel line x).toNat =
      (s.bgPalette line (x / 8)).toNat * 4 +
        (planeColour (s.vramRead (s.bgPatternAddr line (x / 8) + 8)) (s.vramRead (s.bgPatternAddr line (x / 8)))
          (7 - x % 8)).toNat :=
  pixelValue_toNat _ _

/-- Settles O50: reading a pixel commutes with both passes. -/
theorem rasterPassesComposeEachPixel : Obligations.RasterPassesComposeEachPixel :=
  fun s _ _ hx => ⟨seqActive s, rfl, seqActive_pixel s hx⟩

/-- With the background shown and the sprites off, a pixel is the background's (R140). -/
theorem State.composedPixel_of_background {s : State} (bg : s.bgVisible = true) (spr : s.sprVisible = false)
    (line x : Nat) : s.composedPixel line x = s.backgroundPixel line x := by
  simp only [State.composedPixel, bg, spr, if_true, Bool.false_eq_true, if_false]

/-- Settles O49: with the sprites off the composed pixel is the background's, and the model's address and field functions
are the numbers of the statement. -/
theorem backgroundPixelsAreTheTilesUnderTheScroll : Obligations.BackgroundPixelsAreTheTilesUnderTheScroll := by
  intro s x _ hx bg spr
  refine ⟨seqActive s, rfl, ?_⟩
  rw [seqActive_pixel s hx, State.composedPixel_of_background bg spr]
  generalize s.scanline.toNat = line
  have tile : s.ntBase + tileOffset (s.bgTileRow line) (s.bgCol (x / 8)) =
      s.ntBase + s.bgTileRow line * 32 + s.bgCol (x / 8) := (Nat.add_assoc ..).symm
  have attr : s.ntBase + attrOffset (s.bgTileRow line) (s.bgCol (x / 8)) =
      s.ntBase + 0x3C0 + s.bgTileRow line / 4 * 8 + s.bgCol (x / 8) / 4 := by
    simp only [attrOffset, Nat.add_assoc]
  refine ⟨s.bgY line, s.bgTileRow line, s.bgCol (x / 8), s.ntBase, s.bgPatternAddr line (x / 8),
    quadrant (s.bgTileRow line) (s.bgCol (x / 8)), _, _, _, _, rfl, rfl, rfl, ntBase_toNat s, congrArg s.vramRead tile,
    rfl, rfl, rfl, congrArg s.vramRead attr, rfl, ?_⟩
  rw [State.backgroundPixel_toNat, State.bgPalette, attrField_toNat, planeColour_toNat, Nat.add_assoc]

end Sys2Proof.Machine
end

section
/-! Sprites (42_raster.md R148 to R152). -/
namespace Sys2Proof.Machine

/-- Settles O51: the one write of a sprite pixel, with its value as a number. -/
theorem spritePriorityDecidesTheWrite : Obligations.SpritePriorityDecidesTheWrite := by
  intro line x k attr colour fb
  rw [drawSpritePixel_read, apply_ite BitVec.toNat, pixelValue_toNat, sprPalette_toNat]
  rfl

/-- Settles O52: R148's test on `sprite_y = y + 1`, solved for `y`. -/
theorem spriteActivityFollowsItsLines : Obligations.SpriteActivityFollowsItsLines := by
  intro s line i
  rw [State.spriteActive_iff]
  simp only [State.spriteY, State.spriteHeight, State.oamField, oamIndex, Nat.add_zero]
  omega

theorem State.spriteHeight_low {s : State} (low : s.ctrl.getLsbD 5 = false) : s.spriteHeight = 8 := by
  simp only [State.spriteHeight, low, Bool.false_eq_true, if_false]

theorem State.spriteHeight_high {s : State} (high : s.ctrl.getLsbD 5 = true) : s.spriteHeight = 16 := if_pos high

/-- The row of an active sprite lies inside it, flipped or not (R149, D19). -/
theorem State.spriteRow_lt {s : State} {line i : Nat} (active : s.spriteActive line i = true) :
    s.spriteRow line i < s.spriteHeight := by
  obtain ⟨first, last, -⟩ := (State.spriteActive_iff s line i).1 active
  unfold State.spriteRow
  split <;> omega

/-- The pattern address of an 8-high sprite (R149). -/
theorem State.spritePatternAddr_low {s : State} (low : s.ctrl.getLsbD 5 = false) (line i : Nat) :
    s.spritePatternAddr line i = s.sprPatternBase + (s.oamField i 1).toNat * 16 + s.spriteRow line i := by
  simp only [State.spritePatternAddr, low, Bool.false_eq_true, if_false]

/-- The pattern table of a 16-high sprite, as a number (D20). -/
theorem tileTable_toNat (tile : Byte) : (if tile.getLsbD 0 = true then 0x1000 else 0) = tile.toNat % 2 * 0x1000 := by
  simp only [BitVec.getLsbD, Nat.testBit_zero, decide_eq_true_eq]
  split <;> omega

/-- The pattern address of a 16-high sprite (R149, D20). -/
theorem State.spritePatternAddr_high {s : State} (high : s.ctrl.getLsbD 5 = true) (line i : Nat) :
    s.spritePatternAddr line i =
      (s.oamField i 1).toNat % 2 * 0x1000 + (s.oamField i 1).toNat / 2 * 2 * 16 + s.spriteRow line i := by
  simp only [State.spritePatternAddr, high, if_true, tileTable_toNat, evenTile_toNat]

theorem State.sprPatternBase_le (s : State) : s.sprPatternBase ≤ 0x1000 := by
  unfold State.sprPatternBase
  split <;> omega

/-- Settles O53, by the height: it bounds the row, and the row with the tile and the table bounds the address. -/
theorem spritePatternAddressFollowsItsHeight : Obligations.SpritePatternAddressFollowsItsHeight := by
  intro s line i active
  have inside := State.spriteRow_lt active
  have tile := (s.oamField i 1).isLt
  refine ⟨line - s.spriteY i, s.spriteRow line i, s.oamField i 1, s.oamField i 2, rfl, rfl, rfl, ?_⟩
  cases height : s.ctrl.getLsbD 5 with
  | false =>
    rw [State.spriteHeight_low height] at inside
    have table := s.sprPatternBase_le
    have row : s.spriteRow line i =
        if sprFlipV (s.oamField i 2) then 7 - (line - s.spriteY i) else line - s.spriteY i := by
      rw [State.spriteRow, State.spriteHeight_low height]
    have address := State.spritePatternAddr_low height line i
    exact ⟨fun _ => ⟨row, inside, address⟩, nofun, by omega⟩
  | true =>
    rw [State.spriteHeight_high height] at inside
    have row : s.spriteRow line i =
        if sprFlipV (s.oamField i 2) then 15 - (line - s.spriteY i) else line - s.spriteY i := by
      rw [State.spriteRow, State.spriteHeight_high height]
    have address := State.spritePatternAddr_high height line i
    exact ⟨nofun, fun _ => ⟨row, inside, address⟩, by omega⟩

end Sys2Proof.Machine
end

section
/-! The colour at the output (42_raster.md R154). -/
namespace Sys2Proof.Machine

/-- A legal frame buffer holds 4-bit pixel values (R34, R82). -/
theorem State.Inv.pixel_le {s : State} (h : s.Inv) (y x : Nat) : (s.pixel y x).toNat ≤ 15 :=
  of_decide_eq_true (Memory.read_of_all (p := fun v => v.toNat ≤ 15) h.pixels rfl (fbIndex y x))

/-- Settles O54: a legal pixel value is below 64, so both foldings of the palette index keep it. -/
theorem outputColourIsThePaletteEntryOfThePixel : Obligations.OutputColourIsThePaletteEntryOfThePixel := by
  intro s x y legal
  have small := legal.pixel_le y x
  have colour : (s.colourCode x y).toNat = (s.pal.read (s.pixel y x).toNat).toNat % 64 := by
    rw [State.colourCode, BitVec.extractLsb'_toNat, Nat.mod_eq_of_lt (by omega : (s.pixel y x).toNat < 0x40)]
    rfl
  have entry : (0x3F00 + (s.pixel y x).toNat) % 64 = (s.pixel y x).toNat := by omega
  exact ⟨colour, by rw [colour, State.vramRead_palette s (by omega) (by omega), entry]⟩

end Sys2Proof.Machine
end

section
/-! The bank switch (43_mapper_cartridge.md R160 to R162): under the bank-switch-by-value mapper a PRG write moves the base
of every pattern-table read; under every other mapper no step leaves the bank. -/
namespace Sys2Proof.Machine

/-- Settles O21: the write's one effect is `chr_bank`, and a pattern-table read adds the selected bank's base. -/
theorem prgWriteSelectsTheBankByValue : Obligations.PrgWriteSelectsTheBankByValue := by
  intro a v s known
  have selected : prgW a v s = { s with chrBank := v.toNat % s.cart.bankCount } := by
    rw [prgW_eq, if_pos known]; rfl
  exact ⟨_, congrArg Host.Outcome.next selected, rfl, fun k hk => State.vramRead_pattern _ hk⟩

/-- Under a mapper other than the worked example PRG.W changes nothing (R162). -/
theorem prgW_of_unknown {s : State} (unknown : s.cart.mapperId ≠ s.params.bankselMapperId) (a : Addr) (v : Byte) :
    prgW a v s = s := by
  rw [prgW_eq, if_neg unknown]

/-- No operation but PRG.W touches the selected bank (R26). -/
theorem busEffect_chrBank {i : Instr} (notPrg : ∀ a v, i ≠ .prgW a v) (s : State) :
    (busEffect i s).chrBank = s.chrBank := by
  cases i with
  | prgW a v => exact absurd rfl (notPrg a v)
  | ctrlW a v => rw [busEffect, ctrlW_eq]
  | scrollW a v => rw [busEffect, scrollW_eq]
  | addrW a v => rw [busEffect, addrW_eq]
  | dataR a =>
    obtain ⟨_, frame⟩ := dataR_frame a s
    rw [busEffect, frame]
  | dataW a v => rw [busEffect, dataW_eq]
  | joy1W v => rw [busEffect, joy1W_frame]
  | _ => rfl

/-- The mapper is not the worked example, and bank `b` is selected. -/
def State.FixedBank (b : Nat) (s : State) : Prop := s.chrBank = b ∧ s.cart.mapperId ≠ s.params.bankselMapperId

theorem State.FixedBank.busEffect {b : Nat} {s : State} (h : s.FixedBank b) (i : Instr) :
    (busEffect i s).FixedBank b := by
  obtain ⟨rfl, unknown⟩ := h
  refine ⟨?bank, by rwa [busEffect_cart, busEffect_params]⟩
  cases i with
  | prgW a v => exact congrArg State.chrBank (prgW_of_unknown unknown a v)
  | _ => exact busEffect_chrBank (by simp) s

theorem State.FixedBank.executeCycles {b : Nat} {s : State} (h : s.FixedBank b) :
    (executeCycles s).FixedBank b := by
  unfold Machine.executeCycles
  refine runBudget_keeps (State.FixedBank b) (fun i _ ht => ht.busEffect i) _ _ ?_
  rw [State.takeBudget_snd]
  exact h

/-- A step of the sequencer touches the bank through its budget alone (R176, R177, R179). -/
theorem State.FixedBank.step {b : Nat} {s t : State} (h : s.FixedBank b) (hstep : step s = .next t) :
    t.FixedBank b := by
  obtain ⟨x, rest, -, rfl⟩ | ⟨-, -, rfl⟩ | ⟨-, -, -, rfl⟩ | ⟨-, -, -, rfl⟩ | ⟨-, -, -, rfl⟩ := step_cases hstep
  · have taken : State.FixedBank b { s with pending := rest } := h
    exact taken.busEffect _
  · exact h
  · have rendered : (renderScanline s.scanline.toNat s).FixedBank b := h
    exact rendered.executeCycles
  · rw [seqPostrender_eq]; exact h.executeCycles
  · rw [seqVblank_eq]; exact h.executeCycles

/-- Settles O22: PRG.W is the identity there, and every step keeps the bank and the mapper. -/
theorem unknownMapperNeverSwitchesBanks : Obligations.UnknownMapperNeverSwitchesBanks := by
  intro s unknown
  have fixed : s.FixedBank s.chrBank := ⟨rfl, unknown⟩
  exact ⟨fun a v => congrArg Host.Outcome.next (prgW_of_unknown unknown a v), fun t hstep => fixed.step hstep⟩

end Sys2Proof.Machine
end

section
/-! The loader (43_mapper_cartridge.md R164 to R171) and boot (70_reset_and_hazards.md R216): which files are admitted, and
what an admitted file's cartridge holds. -/
namespace Sys2Proof.Machine

theorem goodGeometry_iff (file : List Byte) :
    goodGeometry file = true ↔ 1 ≤ (fileByte file 4).toNat ∧ 1 ≤ (fileByte file 5).toNat ∧
      16 + headerPrgSize file + headerChrSize file ≤ file.length := by
  simp only [goodGeometry, Bool.and_eq_true, decide_eq_true_eq, and_assoc]

theorem loadCartridge_invalidMagic {file : List Byte} (h : file.take 4 ≠ magic) :
    loadCartridge (some file) = .error .invalidMagic := if_pos h

theorem loadCartridge_magic {file : List Byte} (h : file.take 4 = magic) :
    loadCartridge (some file) = if goodGeometry file then .ok (cartridgeOf file) else .error .badGeometry :=
  if_neg (not_not_intro h)

/-- The inversion of LOAD: when it answers a cartridge, and which (R165, R171). -/
theorem loadCartridge_ok_iff (file : List Byte) (c : Cartridge) :
    loadCartridge (some file) = .ok c ↔ file.take 4 = magic ∧ goodGeometry file = true ∧ cartridgeOf file = c := by
  by_cases signed : file.take 4 = magic
  · rw [loadCartridge_magic signed]
    by_cases good : goodGeometry file = true <;> simp [signed, good]
  · simp [loadCartridge_invalidMagic signed, signed]

theorem headerChrSize_div (file : List Byte) : headerChrSize file / 8192 = (fileByte file 5).toNat :=
  Nat.mul_div_cancel _ (by decide)

/-- Every byte of the image is the file's, 16 bytes on (R170, D30). -/
theorem cartridgeOf_data_read (file : List Byte) {k : Nat} (h : k < headerPrgSize file + headerChrSize file) :
    (cartridgeOf file).data.read k = fileByte file (16 + k) := by
  have image : (cartridgeOf file).data.read k =
      ((file.drop 16).take (headerPrgSize file + headerChrSize file)).getD k 0#8 :=
    (Memory.read_ofBytes _ 0 k).trans (if_pos (Nat.zero_le k))
  simp only [image, fileByte, List.getD_eq_getElem?_getD, List.getElem?_take_of_lt h, List.getElem?_drop]

/-- The image of a file whose geometry R171 admits is a legal cartridge. -/
theorem cartridgeOf_legal {file : List Byte} (h : goodGeometry file = true) : (cartridgeOf file).Legal := by
  obtain ⟨prg, chr, -⟩ := (goodGeometry_iff file).1 h
  exact {
    prg_units := Nat.mul_mod_left _ _
    prg_some := Nat.le_mul_of_pos_left 16384 prg
    chr_units := congrArg (· * 8192) (headerChrSize_div file).symm
    chr_some := chr.trans_eq (headerChrSize_div file).symm
    data_wf := Memory.wf_ofBytes 0 _
    data_below := Memory.below_ofBytes _ 0 _ ((Nat.zero_add _).trans_le (List.length_take_le _ _)) }

/-- The inversion of boot: the machine right after reset, over the image of an admitted file (R216). -/
theorem boot_cases {file : Option (List Byte)} {p : Params} {s : State} (h : boot file p = .ok s) :
    ∃ bytes, goodGeometry bytes = true ∧ s = State.resetWith (cartridgeOf bytes) p := by
  unfold boot at h
  split at h
  · rename_i c loaded
    cases h
    cases file with
    | none => cases loaded
    | some bytes =>
      obtain ⟨-, good, rfl⟩ := (loadCartridge_ok_iff bytes c).1 loaded
      exact ⟨bytes, good, rfl⟩
  · cases h

/-- Settles O10: an admitted file's cartridge is legal, and so is every register at its reset value. -/
theorem aBootedMachineIsLegal : Obligations.ABootedMachineIsLegal := by
  intro file p s positive booted
  obtain ⟨bytes, good, rfl⟩ := boot_cases booted
  exact State.resetWith_legal (cartridgeOf_legal good) positive

/-- Settles O58: the sizes are the header's unit counts, and each byte of the image is read at its place in the file. -/
theorem loaderDerivesTheSizesFromTheHeader : Obligations.LoaderDerivesTheSizesFromTheHeader := by
  intro file c loaded
  obtain ⟨-, -, rfl⟩ := (loadCartridge_ok_iff file c).1 loaded
  exact ⟨rfl, headerChrSize_div file, rfl, fun k hk => cartridgeOf_data_read file hk⟩

/-- The mirroring flag is the low bit of header byte 6 (R168, D12). -/
theorem headerMirroring_eq_vertical_iff (file : List Byte) :
    headerMirroring file = .vertical ↔ (fileByte file 6).toNat % 2 = 1 := by
  have bit : (fileByte file 6).getLsbD 0 = decide ((fileByte file 6).toNat % 2 = 1) := Nat.testBit_zero _
  unfold headerMirroring
  rw [bit]
  by_cases odd : (fileByte file 6).toNat % 2 = 1 <;> simp [odd]

theorem highNibble_toNat (b : Byte) : (b &&& 0xF0#8).toNat = b.toNat / 16 * 16 := by
  revert b; decide +kernel

/-- The two high nibbles side by side share no bit, so the mapper id is a sum (R169, D28). -/
theorem headerMapperId_toNat (file : List Byte) :
    (headerMapperId file).toNat = (fileByte file 7).toNat / 16 * 16 + (fileByte file 6).toNat / 16 := by
  have low : (fileByte file 6).toNat / 16 < 2 ^ 4 := by have := (fileByte file 6).isLt; omega
  have shifted : (fileByte file 6 >>> 4).toNat = (fileByte file 6).toNat / 16 := by
    rw [BitVec.toNat_ushiftRight, Nat.shiftRight_eq_div_pow]
  calc (headerMapperId file).toNat
      = (fileByte file 7).toNat / 16 * 16 ||| (fileByte file 6).toNat / 16 := by
        rw [headerMapperId, BitVec.toNat_or, highNibble_toNat, shifted]
    _ = ((fileByte file 7).toNat / 16) <<< 4 ||| (fileByte file 6).toNat / 16 := by rw [Nat.shiftLeft_eq]
    _ = (fileByte file 7).toNat / 16 * 16 + (fileByte file 6).toNat / 16 := shiftLeft_or_of_lt low

/-- Settles O59: both fields are the header's. -/
theorem loaderDerivesMirroringAndMapper : Obligations.LoaderDerivesMirroringAndMapper := by
  intro file c loaded
  obtain ⟨-, -, rfl⟩ := (loadCartridge_ok_iff file c).1 loaded
  exact ⟨headerMirroring_eq_vertical_iff file, headerMapperId_toNat file⟩

/-- Settles O60: the loader tests exactly the signature and the geometry, the signature first. -/
theorem loaderAdmitsExactlyTheWellFormedFiles : Obligations.LoaderAdmitsExactlyTheWellFormedFiles := by
  refine ⟨rfl, fun file => ⟨?admitted, loadCartridge_invalidMagic⟩⟩
  case admitted =>
    calc (∃ c, loadCartridge (some file) = .ok c)
        ↔ file.take 4 = magic ∧ goodGeometry file = true := by simp [loadCartridge_ok_iff]
      _ ↔ _ := and_congr_right' (goodGeometry_iff file)

end Sys2Proof.Machine
end

section
/-! The dispatch of the sequencer (44_frame_sequencer.md R175): with no transaction waiting and the run not over, a step is
the one of its scanline. -/
namespace Sys2Proof.Machine

theorem seqInstr_active {n : BitVec 9} (h : n.toNat ≤ 239) : seqInstr n = .seqActive ∧ seqCodeOf n = 0#2 :=
  ⟨if_pos h, if_pos h⟩

theorem seqInstr_postrender {n : BitVec 9} (h : n.toNat = 240) : seqInstr n = .seqPostrender ∧ seqCodeOf n = 1#2 := by
  have late : ¬ n.toNat ≤ 239 := by omega
  exact ⟨(if_neg late).trans (if_pos h), (if_neg late).trans (if_pos h)⟩

theorem seqInstr_vblank {n : BitVec 9} (h : 241 ≤ n.toNat) : seqInstr n = .seqVblank ∧ seqCodeOf n = 2#2 := by
  have late : ¬ n.toNat ≤ 239 := by omega
  have past : ¬ n.toNat = 240 := by omega
  exact ⟨(if_neg late).trans (if_neg past), (if_neg late).trans (if_neg past)⟩

/-- Once the run is over and no transaction waits, a step changes nothing (R175, R182). -/
theorem step_halted {s : State} (idle : s.pending = []) (halted : s.halted = true) : step s = .next s := by
  simp only [step, fetch, idle, halted, if_true]

section running
variable {s : State} (idle : s.pending = []) (running : s.halted = false)
include idle running

theorem step_sequencer : step s = exec (seqInstr s.scanline) s := by
  simp only [step, fetch, idle, running, Bool.false_eq_true, if_false]

theorem step_active (h : s.scanline.toNat ≤ 239) : step s = .next (seqActive s) := by
  rw [step_sequencer idle running, (seqInstr_active h).1]; rfl

theorem step_postrender (h : s.scanline.toNat = 240) : step s = .next (seqPostrender s) := by
  rw [step_sequencer idle running, (seqInstr_postrender h).1]; rfl

theorem step_vblank (h : 241 ≤ s.scanline.toNat) : step s = .next (seqVblank s) := by
  rw [step_sequencer idle running, (seqInstr_vblank h).1]; rfl

end running

/-- Settles O6: the three ranges of the dispatch, each with its own state code, and the run that is over. -/
theorem stepIsTheSequencerStepOfItsScanline : Obligations.StepIsTheSequencerStepOfItsScanline := by
  intro s idle
  refine ⟨step_halted idle, ?active, ?postrender, ?vblank⟩
  case active => exact fun running h => ⟨step_active idle running h, (seqInstr_active h).2, rfl⟩
  case postrender => exact fun running h => ⟨step_postrender idle running h, (seqInstr_postrender h).2, rfl⟩
  case vblank => exact fun running h _ => ⟨step_vblank idle running h, (seqInstr_vblank h).2, rfl⟩

end Sys2Proof.Machine
end

section
/-! The three steps of the sequencer over the budget they run (44_frame_sequencer.md R176 to R182, 00_scope.md R6). -/
namespace Sys2Proof.Machine

/-- The whole effect of a call of the CPU engine: the call is sent out, then the budget's transactions are performed
(R6). -/
theorem executeCycles_eq (s : State) : executeCycles s = runBudget s.takeBudget.1 { s with
    budgets := s.budgets.tail
    drawn := s.drawn + (if s.budgets = [] then 1 else 0)
    trace := .executeCycles s.params.cyclesPerScanline :: s.trace } := by
  rw [executeCycles, State.takeBudget_snd]; rfl

/-- Rendering is no input of the CPU engine's choice of a budget (R6). -/
theorem renderScanline_takeBudget_fst (line : Nat) (s : State) :
    (renderScanline line s).takeBudget.1 = s.takeBudget.1 := by
  simp only [State.takeBudget, renderScanline_budgets, renderScanline_drawn]
  cases s.budgets <;> rfl

/-- SEQ.ACTIVE over its budget: the row is rendered from the state before it (R176). -/
theorem seqActive_eq (s : State) : seqActive s =
    { runBudget s.takeBudget.1 { s with
        fb := s.rendered s.scanline.toNat
        budgets := s.budgets.tail
        drawn := s.drawn + (if s.budgets = [] then 1 else 0)
        trace := .executeCycles s.params.cyclesPerScanline :: s.trace } with
      scanline := s.scanline + 1#9 } := by
  rw [seqActive, executeCycles_eq, renderScanline_takeBudget_fst]; rfl

/-- On `close` SEQ.POSTRENDER ends the run where it stands (R182, D35). -/
theorem seqPostrender_of_close {s : State} (closed : (executeCycles s).presentFrame.1 = .close) :
    seqPostrender s = { executeCycles s with
      halted := true
      answers := s.answers.tail
      drawn := (executeCycles s).presentFrame.2.drawn
      trace := .presentFrame s.fb Config.masterRgb :: (executeCycles s).trace } := by
  simp [seqPostrender_eq, closed]

/-- On `continue` SEQ.POSTRENDER enters the vblank (R178, R181, D33). -/
theorem seqPostrender_of_carryOn {s : State} (carried : (executeCycles s).presentFrame.1 = .carryOn) :
    seqPostrender s = { executeCycles s with
      status := (executeCycles s).status ||| 0x80#8
      scanline := 241#9
      answers := s.answers.tail
      drawn := (executeCycles s).presentFrame.2.drawn
      trace := (if (executeCycles s).nmiEnable = true then [Output.raiseNmi] else []) ++
        .presentFrame s.fb Config.masterRgb :: (executeCycles s).trace } := by
  simp [seqPostrender_eq, carried]

/-- At scanline 260 SEQ.VBLANK clears the flag and begins the next frame (R180, D33). -/
theorem seqVblank_last {s : State} (last : s.scanline.toNat = 260) :
    seqVblank s = { (executeCycles s).clearVblank with scanline := 0#9 } :=
  if_pos (BitVec.eq_of_toNat_eq last)

/-- At every other scanline SEQ.VBLANK advances (R179). -/
theorem seqVblank_advances {s : State} (notLast : s.scanline.toNat ≠ 260) :
    seqVblank s = { executeCycles s with scanline := s.scanline + 1#9 } :=
  if_neg fun last => notLast (congrArg BitVec.toNat last)

/-- Settles O43: rendering comes before the budget, which is taken from the same input data. -/
theorem activeStepRendersRunsAdvances : Obligations.ActiveStepRendersRunsAdvances := by
  intro s active
  exact ⟨s.takeBudget.1, _, seqActive s, rfl, State.takeBudget_fst s, scanline_succ_toNat (by omega), seqActive_eq s⟩

/-- Settles O44: the budget's effect is the state after the call of the CPU engine, and the step goes by the host's
answer from there. -/
theorem postRenderStepPresentsThenEntersVblank : Obligations.PostRenderStepPresentsThenEntersVblank := by
  intro s
  refine ⟨s.takeBudget.1, _, (executeCycles s).presentFrame.2.drawn, (executeCycles s).presentFrame.1, seqPostrender s,
    executeCycles s, rfl, State.takeBudget_fst s, ?answer, executeCycles_eq s, ?closed, ?carried⟩
  case answer => simpa using State.presentFrame_fst (executeCycles s)
  case closed => exact seqPostrender_of_close
  case carried => exact seqPostrender_of_carryOn

/-- Settles O45: after the budget the step only advances, except at 260, where it clears bit 7 of `status` and goes to
scanline 0. -/
theorem vblankStepRunsThenAdvancesOrWraps : Obligations.VblankStepRunsThenAdvancesOrWraps := by
  intro s _ legal
  refine ⟨s.takeBudget.1, _, seqVblank s, executeCycles s, rfl, State.takeBudget_fst s, executeCycles_eq s, ?last,
    ?before⟩
  case last =>
    intro last
    rw [seqVblank_last last]
    exact ⟨rfl, (State.clearVblank_getLsbD _ 7).trans (if_pos rfl),
      fun k other => (State.clearVblank_getLsbD _ k).trans (if_neg other)⟩
  case before =>
    intro notLast
    rw [seqVblank_advances notLast]
    exact ⟨rfl, scanline_succ_toNat legal⟩

/-- What a row is rendered from does not include the budgets (R140, R221). -/
theorem State.rendered_setBudgets (s : State) (line : Nat) (budgets : List (List BusTxn)) :
    State.rendered { s with budgets := budgets } line = s.rendered line := rfl

/-- Settles O47: the budget leaves the frame buffer, and the row was rendered before it, from a state that differs in
the budgets alone. -/
theorem theBudgetDoesNotReachTheRenderedRow : Obligations.TheBudgetDoesNotReachTheRenderedRow := by
  intro s t u xs ys moreX moreY _ ht hu
  cases ht
  cases hu
  simp only [seqActive_fb, State.rendered_setBudgets, and_self]

end Sys2Proof.Machine
end

section
/-! The vblank flag (44_frame_sequencer.md R178, 60_exceptions.md R204): the bus can clear it and never sets it. -/
namespace Sys2Proof.Machine

/-- No operation but STATUS.R touches `status` (R14). -/
theorem busEffect_status {i : Instr} (notStatus : ∀ a, i ≠ .statusR a) (s : State) :
    (busEffect i s).status = s.status := by
  cases i with
  | statusR a => exact absurd rfl (notStatus a)
  | ctrlW a v => rw [busEffect, ctrlW_eq]
  | scrollW a v => rw [busEffect, scrollW_eq]
  | addrW a v => rw [busEffect, addrW_eq]
  | dataR a =>
    obtain ⟨_, frame⟩ := dataR_frame a s
    rw [busEffect, frame]
  | dataW a v => rw [busEffect, dataW_eq]
  | joy1W v => rw [busEffect, joy1W_frame]
  | prgW a v => rw [busEffect, prgW_eq]
  | _ => rfl

theorem State.clearVblank_vblank (s : State) : s.clearVblank.vblank = false :=
  (State.clearVblank_getLsbD s 7).trans (if_pos rfl)

theorem busEffect_vblank_clear {s : State} (clear : s.vblank = false) (i : Instr) : (busEffect i s).vblank = false := by
  cases i with
  | statusR a => exact State.clearVblank_vblank s
  | _ => simpa [State.vblank, busEffect_status] using clear

theorem executeCycles_vblank_clear {s : State} (clear : s.vblank = false) : (executeCycles s).vblank = false := by
  rw [executeCycles_eq]
  exact runBudget_keeps (·.vblank = false) (fun i _ kept => busEffect_vblank_clear kept i) _ _ clear

theorem seqActive_vblank_clear {s : State} (clear : s.vblank = false) : (seqActive s).vblank = false := by
  have rendered : (renderScanline s.scanline.toNat s).vblank = false := clear
  exact executeCycles_vblank_clear rendered

theorem seqVblank_vblank_clear {s : State} (clear : s.vblank = false) : (seqVblank s).vblank = false := by
  by_cases last : s.scanline.toNat = 260
  · rw [seqVblank_last last]; exact State.clearVblank_vblank _
  · rw [seqVblank_advances last]; exact executeCycles_vblank_clear clear

/-- Settles O41: every other step keeps the flag clear, and so does SEQ.POSTRENDER when the host closes. -/
theorem onlyPostRenderSetsTheVblankFlag : Obligations.OnlyPostRenderSetsTheVblankFlag := by
  intro s t hstep (clear : s.vblank = false) (set : t.vblank = true)
  have raised : t.vblank ≠ false := ne_false_of_eq_true set
  obtain ⟨x, rest, -, rfl⟩ | ⟨-, -, rfl⟩ | ⟨-, -, -, rfl⟩ | ⟨idle, running, at240, rfl⟩ | ⟨-, -, -, rfl⟩ :=
    step_cases hstep
  · have taken : State.vblank { s with pending := rest } = false := clear
    exact absurd (busEffect_vblank_clear taken _) raised
  · exact absurd clear raised
  · exact absurd (seqActive_vblank_clear clear) raised
  · refine ⟨idle, running, BitVec.eq_of_toNat_eq at240, ?_⟩
    cases answer : (executeCycles s).presentFrame.1 with
    | carryOn => rw [seqPostrender_of_carryOn answer]
    | close =>
      rw [seqPostrender_of_close answer] at raised
      exact absurd (executeCycles_vblank_clear clear) raised
  · exact absurd (seqVblank_vblank_clear clear) raised

end Sys2Proof.Machine
end

section
/-! A frame (44_frame_sequencer.md R175, R183): where the sequencer stands after `n` of a frame's steps, carried from step
to step and closed by the step at scanline 260. -/
namespace Sys2Proof.Machine

/-- `t` is `n` steps into a frame the host does not close that began in `s`: one scanline and one budget a step, and the
frame handed over by the step at 240. -/
structure State.FrameAfter (s : State) (n : Nat) (t : State) : Prop where
  idle : t.pending = []
  running : t.halted = false
  scanline : t.scanline.toNat = n
  answers : t.answers = if n ≤ 240 then s.answers else s.answers.tail
  budgets : t.budgetCount = s.budgetCount + n
  frames : t.frameCount = s.frameCount + if n ≤ 240 then 0 else 1

theorem seqActive_counts (s : State) :
    (seqActive s).budgetCount = s.budgetCount + 1 ∧ (seqActive s).frameCount = s.frameCount :=
  executeCycles_counts (renderScanline s.scanline.toNat s)

theorem seqVblank_counts (s : State) :
    (seqVblank s).budgetCount = s.budgetCount + 1 ∧ (seqVblank s).frameCount = s.frameCount := by
  rw [seqVblank_eq]
  exact executeCycles_counts s

theorem seqPostrender_counts {s : State} (carried : (executeCycles s).presentFrame.1 = .carryOn) :
    (seqPostrender s).budgetCount = s.budgetCount + 1 ∧ (seqPostrender s).frameCount = s.frameCount + 1 := by
  obtain ⟨budgets, frames⟩ := executeCycles_counts s
  rw [seqPostrender_of_carryOn carried, ← budgets, ← frames]
  cases (executeCycles s).nmiEnable <;> simp [State.budgetCount, State.frameCount]

section steps
variable {s t : State} {n : Nat}

theorem State.FrameAfter.active (h : s.FrameAfter n t) (line : n ≤ 239) : s.FrameAfter (n + 1) (seqActive t) where
  idle := by simp [seqActive, h.idle]
  running := by simp [seqActive, h.running]
  scanline := by rw [seqActive_scanline, scanline_succ_toNat (by rw [h.scanline]; omega), h.scanline]
  answers := by rw [if_pos (by omega)]; simp [seqActive, h.answers, if_pos (show n ≤ 240 by omega)]
  budgets := by rw [(seqActive_counts t).1, h.budgets]; omega
  frames := by rw [(seqActive_counts t).2, h.frames, if_pos (by omega), if_pos (by omega)]

theorem State.FrameAfter.postrender (h : s.FrameAfter 240 t) (carryOn : s.answers.head? = some .carryOn) :
    s.FrameAfter 241 (seqPostrender t) := by
  have carried : (executeCycles t).presentFrame.1 = .carryOn :=
    State.presentFrame_fst _ _ (by simpa [h.answers] using carryOn)
  obtain ⟨budgets, frames⟩ := seqPostrender_counts carried
  exact {
    idle := by simp [seqPostrender_of_carryOn carried, h.idle]
    running := by simp [seqPostrender_of_carryOn carried, h.running]
    scanline := by simp [seqPostrender_of_carryOn carried]
    answers := by simp [seqPostrender_of_carryOn carried, h.answers]
    budgets := by rw [budgets, h.budgets]
    frames := by rw [frames, h.frames]; rfl }

theorem State.FrameAfter.vblank (h : s.FrameAfter n t) (late : 241 ≤ n) (notLast : n < 260) :
    s.FrameAfter (n + 1) (seqVblank t) where
  idle := by simp [seqVblank_eq, h.idle]
  running := by rw [seqVblank_halted, h.running]
  scanline := by
    have line := h.scanline
    rw [seqVblank_advances (by omega)]
    exact (scanline_succ_toNat (by omega)).trans (congrArg (· + 1) line)
  answers := by rw [seqVblank_answers, h.answers, if_neg (by omega), if_neg (by omega)]
  budgets := by rw [(seqVblank_counts t).1, h.budgets]; omega
  frames := by rw [(seqVblank_counts t).2, h.frames, if_neg (by omega), if_neg (by omega)]

/-- The next step of a frame before its last, by the sequencer's dispatch (R175). -/
theorem State.FrameAfter.step (h : s.FrameAfter n t) (carryOn : s.answers.head? = some .carryOn) (notLast : n < 260) :
    ∃ u, Machine.step t = .next u ∧ s.FrameAfter (n + 1) u := by
  have line := h.scanline
  obtain active | rfl | late : n ≤ 239 ∨ n = 240 ∨ 241 ≤ n := by omega
  · exact ⟨_, step_active h.idle h.running (by omega), h.active active⟩
  · exact ⟨_, step_postrender h.idle h.running line, h.postrender carryOn⟩
  · exact ⟨_, step_vblank h.idle h.running (by omega), h.vblank late notLast⟩

/-- The first `n` steps of a frame, by induction on `n`. -/
theorem run_frameAfter (start : s.FrameAfter 0 s) (carryOn : s.answers.head? = some .carryOn) :
    ∀ n ≤ 260, ∃ t : State, Host.Core.run Sys2Proof.core n s = .next t ∧ s.FrameAfter n t := by
  intro n
  induction n with
  | zero => exact fun _ => ⟨s, rfl, start⟩
  | succ n ih =>
    intro inside
    obtain ⟨t, ran, h⟩ := ih (by omega)
    obtain ⟨u, stepped, h'⟩ := h.step carryOn (by omega)
    exact ⟨u, (run_add n 1 s t ran).trans (run_step 0 stepped), h'⟩

end steps

/-- Settles O48: 260 steps lead to scanline 260, and the step there clears the flag and goes to scanline 0. -/
theorem aFrameIs261Steps : Obligations.AFrameIs261Steps := by
  intro s idle running first carryOn
  have start : s.FrameAfter 0 s := ⟨idle, running, congrArg BitVec.toNat first, rfl, rfl, rfl⟩
  obtain ⟨t, ran, h⟩ := run_frameAfter start carryOn 260 le_rfl
  have last : t.scanline.toNat = 260 := h.scanline
  have stepped : step t = .next (seqVblank t) := step_vblank h.idle h.running (by omega)
  obtain ⟨budgets, frames⟩ := seqVblank_counts t
  refine ⟨seqVblank t, (run_add 260 1 s t ran).trans (run_step 0 stepped), ?pending, ?running, ?scanline, ?flag, ?answers,
    ?budgets, ?frames⟩
  case pending => simp [seqVblank_eq, h.idle]
  case running => rw [seqVblank_halted, h.running]
  case scanline => rw [seqVblank_last last]
  case flag => rw [seqVblank_last last]; exact State.clearVblank_vblank _
  case answers => rw [seqVblank_answers, h.answers]; rfl
  case budgets => rw [budgets, h.budgets]
  case frames => rw [frames, h.frames]; rfl

end Sys2Proof.Machine
end

section
/-! What the bus cannot reach (60_exceptions.md R204), and when it requests an NMI (R198; 41_ppu_ports.md R111): the NMI
line is `NMIE and VBL`, and CTRL.W alone can raise it from the bus. -/
namespace Sys2Proof.Machine

/-- Settles O38: the fields by the frame of a bus operation, and a clear vblank flag stays clear. -/
theorem theBusCannotReachTheSequencerState : Obligations.TheBusCannotReachTheSequencerState := by
  intro i s t bus h
  cases (exec_bus i s bus).symm.trans h
  refine ⟨busEffect_fb i s, busEffect_scanline i s, busEffect_halted i s, busEffect_cart i s, busEffect_params i s, ?flag⟩
  case flag =>
    intro set
    by_contra unset
    exact Bool.false_ne_true ((busEffect_vblank_clear (Bool.eq_false_of_not_eq_true unset) i).symm.trans set)

/-- No operation but CTRL.W touches `ctrl` (R11). -/
theorem busEffect_ctrl {i : Instr} (notCtrl : ∀ a v, i ≠ .ctrlW a v) (s : State) : (busEffect i s).ctrl = s.ctrl := by
  cases i with
  | ctrlW a v => exact absurd rfl (notCtrl a v)
  | scrollW a v => rw [busEffect, scrollW_eq]
  | addrW a v => rw [busEffect, addrW_eq]
  | dataR a =>
    obtain ⟨_, frame⟩ := dataR_frame a s
    rw [busEffect, frame]
  | dataW a v => rw [busEffect, dataW_eq]
  | joy1W v => rw [busEffect, joy1W_frame]
  | prgW a v => rw [busEffect, prgW_eq]
  | _ => rfl

/-- Without CTRL.W the bus cannot raise the NMI line: `NMIE` stays, and `VBL` is never set (R204). -/
theorem busEffect_nmiLine_clear {i : Instr} (notCtrl : ∀ a v, i ≠ .ctrlW a v) {s : State} (clear : s.nmiLine = false) :
    (busEffect i s).nmiLine = false := by
  obtain disabled | outside := (Bool.and_eq_false_iff (x := s.nmiEnable)).1 clear
  · have kept : (busEffect i s).nmiEnable = s.nmiEnable := congrArg nmiBit (busEffect_ctrl notCtrl s)
    rw [State.nmiLine, kept, disabled, Bool.false_and]
  · rw [State.nmiLine, busEffect_vblank_clear outside, Bool.and_false]

/-- An answered byte is no NMI request. -/
@[simp] theorem State.answer_nmiCount (s : State) (v : Byte) : (s.answer v).nmiCount = s.nmiCount := by
  simp [State.nmiCount]

/-- No operation but CTRL.W requests an NMI (R111, R198). -/
theorem busEffect_nmiCount {i : Instr} (notCtrl : ∀ a v, i ≠ .ctrlW a v) (s : State) :
    (busEffect i s).nmiCount = s.nmiCount := by
  cases i with
  | ctrlW a v => exact absurd rfl (notCtrl a v)
  | scrollW a v => rw [busEffect, scrollW_eq]; rfl
  | addrW a v => rw [busEffect, addrW_eq]; rfl
  | dataR a =>
    obtain ⟨v, frame⟩ := dataR_frame a s
    rw [busEffect, frame]
    exact State.answer_nmiCount s v
  | dataW a v => rw [busEffect, dataW_eq]; rfl
  | joy1W v =>
    by_cases zero : v = 0#8
    · rw [busEffect, joy1W, if_pos zero]
    · rw [busEffect, joy1W_strobe zero]; rfl
  | prgW a v => rw [busEffect, prgW_eq]; rfl
  | ramR a | ctrlR a | maskR a | statusR a | oamaddrR a | oamdataR a | scrollR a | addrR a | joy1R | openR a | prgR a =>
    exact State.answer_nmiCount _ _
  | _ => rfl

/-- CTRL.W requests one NMI when it raises the NMI line, and none otherwise: with `VBL` untouched, the rising edge of
`NMIE` during vblank is the rising edge of the line (R111, D32). -/
theorem ctrlW_nmiCount (a : Addr) (v : Byte) (s : State) : (ctrlW a v s).nmiCount =
    s.nmiCount + if s.nmiLine = false ∧ (ctrlW a v s).nmiLine = true then 1 else 0 := by
  have edge : (s.nmiLine = false ∧ (nmiBit v && s.vblank) = true) ↔
      s.ctrl.getLsbD 7 = false ∧ v.getLsbD 7 = true ∧ s.status.getLsbD 7 = true := by
    simp only [State.nmiLine, State.nmiEnable, State.vblank, nmiBit]
    cases s.status.getLsbD 7 <;> simp
  have line : (ctrlW a v s).nmiLine = (nmiBit v && s.vblank) := by rw [ctrlW_eq]; rfl
  rw [line, ctrlW_eq]
  simp only [edge, State.nmiCount, List.countP_append]
  split <;> simp [Nat.add_comm]

/-- Settles O40: CTRL.W requests exactly on the line's rising edge; no other operation requests, and none raises it. -/
theorem aBusOperationRequestsNmiOnTheRisingEdge : Obligations.ABusOperationRequestsNmiOnTheRisingEdge := by
  intro i s t bus h
  cases (exec_bus i s bus).symm.trans h
  by_cases ctrlWrite : ∃ a v, i = .ctrlW a v
  · obtain ⟨a, v, rfl⟩ := ctrlWrite
    exact ctrlW_nmiCount a v s
  · have notCtrl (a : Addr) (v : Byte) : i ≠ .ctrlW a v := fun e => ctrlWrite ⟨a, v, e⟩
    have noEdge : ¬(s.nmiLine = false ∧ (busEffect i s).nmiLine = true) := fun ⟨clear, raised⟩ =>
      Bool.false_ne_true ((busEffect_nmiLine_clear notCtrl clear).symm.trans raised)
    exact (busEffect_nmiCount notCtrl s).trans (Nat.left_eq_add.2 (if_neg noEdge))

end Sys2Proof.Machine
end

section
/-! Totality (60_exceptions.md R195, 00_scope.md R8): every operation, and so every step, answers a next state. -/
namespace Sys2Proof.Machine

/-- Every operation has a meaning that answers a next state: its effect on the bus, or its step of the sequencer. -/
theorem exec_total (i : Instr) (s : State) : ∃ t, exec i s = .next t := by
  cases bus : i.isBus with
  | true => exact ⟨busEffect i s, exec_bus i s bus⟩
  | false =>
    cases i with
    | seqActive => exact ⟨seqActive s, rfl⟩
    | seqPostrender => exact ⟨seqPostrender s, rfl⟩
    | seqVblank => exact ⟨seqVblank s, rfl⟩
    | _ => cases bus

/-- Settles O7: a step runs the fetched operation, and without one the run is over and the state stays. -/
theorem everyOperationAndStepIsTotal : Obligations.EveryOperationAndStepIsTotal := by
  refine ⟨nofun, exec_total, ?step⟩
  case step =>
    intro s
    unfold step
    cases fetch s with
    | none => exact ⟨s, rfl⟩
    | some fetched => exact exec_total fetched.1 fetched.2

end Sys2Proof.Machine
end
